-- ==== Sys2Proof/Word.lean ====
section
/-! DEFINITION. The widths of the block: bytes, 16-bit operands, wire words, request frames (rules R6, R50, R59). -/

namespace Sys2Proof

/-- `u8`: an unsigned 8-bit value (rule R6). -/
abbrev Byte := BitVec 8

/-- `u16`: an unsigned 16-bit value: a coordinate, a size or a Color (rules R6, R21). -/
abbrev U16 := BitVec 16

/-- A 9-bit wire word: bit 8 the register-select level, bits 7:0 the byte (rule R50). -/
abbrev WireWord := BitVec 9

/-- A 96-bit host request frame (rule R59). -/
abbrev Frame := BitVec 96

/-- Four unsigned 16-bit coordinates: the column range `xs .. xe` and the row range `ys .. ye` (rules R39, R91). -/
structure Window where
  xs : U16
  xe : U16
  ys : U16
  ye : U16
  deriving DecidableEq, Repr, Inhabited

end Sys2Proof
end

