-- ==== Sys2Proof/Syntax.lean ====
section
/-! DEFINITION. The instructions: one constructor per row of spec/opcode_table.json, and the host's requests. -/

namespace Sys2Proof

/-- The rows of the opcode table. The `HOSTREQ` rows are the eleven operations of rule R58 and the reserved `OP`
values of rule R61; the `WIRE9` rows are the wire words of rules R50 and R54. -/
inductive Instr where
  /-- `CONFIGURE()` (rule R70). -/
  | configure
  /-- `XFER(byte, isData)` (rule R71). -/
  | xfer (byte : Byte) (isData : Bool)
  /-- `CMD(opcode)` (rule R80). -/
  | cmd (opcode : Byte)
  /-- `DATA(byte)` (rule R81). -/
  | data (byte : Byte)
  /-- `DATABYTES(bytes)` (rule R82). -/
  | dataBytes (bytes : List Byte)
  /-- `RESET()` (rule R85). -/
  | reset
  /-- `INIT()` (rule R87). -/
  | init
  /-- `SETWIN(x1, y1, x2, y2)` (rule R91). -/
  | setWin (x1 y1 x2 y2 : U16)
  /-- `PIXEL(x, y, color)` (rule R101). -/
  | pixel (x y color : U16)
  /-- `LINE(x1, y1, x2, y2, color)` (rule R104). -/
  | line (x1 y1 x2 y2 color : U16)
  /-- `RECT(x, y, size, color, filled)` (rule R110). -/
  | rect (x y size color : U16) (filled : Bool)
  /-- A frame whose `OP` names no operation (rule R61). -/
  | reservedOp (op : BitVec 4)
  /-- Command words of the initialization script, in script order (rules R54, R88). -/
  | script01
  | scriptCF
  | scriptED
  | scriptE8
  | scriptCB
  | scriptF7
  | scriptEA
  | scriptC0
  | scriptC1
  | scriptC5
  | scriptC7
  | script36
  | script3A
  | scriptB1
  | scriptB6
  | scriptF2
  | script26
  | scriptE0
  | scriptE1
  | script11
  | script29
  /-- Column-address-set, `02A` (rule R39). -/
  | winCol2A
  /-- Row-address-set, `02B` (rule R39). -/
  | winRow2B
  /-- Memory-write begin, `02C` (rule R40). -/
  | memWrite2C
  /-- A word with `rs = 1` (rule R50). -/
  | dataWord (b : Byte)
  /-- A command word with none of the 24 opcodes that have rows of their own (rules R50, R62). -/
  | cmdWord (b : Byte)
  deriving DecidableEq, Repr

/-- What the host can ask of the block (rules R57 to R64; log 1, log 3). -/
inductive Request where
  /-- One 96-bit request frame (rule R59). -/
  | frame (f : Frame)
  /-- A named invocation, as a program line writes it (rules R58, R64). -/
  | invoke (i : Instr)
  /-- One bus write named by its wire word (rules R30, R50). DESIGN CHOICE (log 3), safe: it is `XFER` of the same
  word. -/
  | wire (w : WireWord)
  /-- `second` issued while `first` is running (rule R124, `Concurrent`). -/
  | overlapping (first second : Frame)
  deriving DecidableEq, Repr

end Sys2Proof
end

