-- ==== Sys2Proof/WellFormed.lean ====
section
/-! DEFINITION. Which instructions have an encoding: the checks a row of the opcode table puts on its own operands. -/

namespace Sys2Proof

/-- The 24 opcodes of rule R54, which the generic command row does not cover. -/
def rowOpcodes : List Byte :=
  [0x01, 0xCF, 0xED, 0xE8, 0xCB, 0xF7, 0xEA, 0xC0, 0xC1, 0xC5, 0xC7, 0x36, 0x3A, 0xB1, 0xB6, 0xF2, 0x26, 0xE0, 0xE1,
   0x11, 0x29, 0x2A, 0x2B, 0x2C]

/-- Every operand value is legal for the decoder (rule R61); a reserved `OP` is `0x8 .. 0xF`, and the generic command
row leaves the 24 opcodes to their own rows (table note of `CMDWORD`). -/
def Instr.wellFormed : Instr → Bool
  | .reservedOp op => 8 ≤ op.toNat
  | .cmdWord b => !rowOpcodes.contains b
  | .configure => true
  | .xfer _ _ => true
  | .cmd _ => true
  | .data _ => true
  | .dataBytes _ => true
  | .reset => true
  | .init => true
  | .setWin _ _ _ _ => true
  | .pixel _ _ _ => true
  | .line _ _ _ _ _ => true
  | .rect _ _ _ _ _ => true
  | .script01 => true
  | .scriptCF => true
  | .scriptED => true
  | .scriptE8 => true
  | .scriptCB => true
  | .scriptF7 => true
  | .scriptEA => true
  | .scriptC0 => true
  | .scriptC1 => true
  | .scriptC5 => true
  | .scriptC7 => true
  | .script36 => true
  | .script3A => true
  | .scriptB1 => true
  | .scriptB6 => true
  | .scriptF2 => true
  | .script26 => true
  | .scriptE0 => true
  | .scriptE1 => true
  | .script11 => true
  | .script29 => true
  | .winCol2A => true
  | .winRow2B => true
  | .memWrite2C => true
  | .dataWord _ => true

/-- The rows that are pseudo-operations: they have no encoding of their own but that of their expansion (rule R64). -/
def Instr.isPseudo : Instr → Bool
  | .cmd _ => true
  | .data _ => true
  | .dataBytes _ => true
  | _ => false

end Sys2Proof
end

