-- ==== Sys2Proof/Decode.lean ====
section
/-! DEFINITION. Decoding of request frames and wire words (rules R50, R54, R59 to R61), and the encoder. -/

namespace Sys2Proof

/-! ## Fields of a frame (rule R59) -/

def Frame.op (f : Frame) : BitVec 4 := f.extractLsb' 92 4
def Frame.flag (f : Frame) : Bool := f.getLsbD 91
def Frame.a (f : Frame) : U16 := f.extractLsb' 72 16
def Frame.b (f : Frame) : U16 := f.extractLsb' 56 16
def Frame.c (f : Frame) : U16 := f.extractLsb' 40 16
def Frame.e (f : Frame) : U16 := f.extractLsb' 24 16
def Frame.color (f : Frame) : U16 := f.extractLsb' 8 16
def Frame.byte (f : Frame) : Byte := f.extractLsb' 0 8

/-- The frame with these fields and zero reserved bits: the canonical encoding of rule R60. -/
def Frame.build (op : BitVec 4) (flag : Bool) (a b c e color : U16) (byte : Byte) : Frame :=
  op ++ BitVec.ofBool flag ++ (0 : BitVec 3) ++ a ++ b ++ c ++ e ++ color ++ byte

/-- The instruction a request frame carries (rules R60, R61): fields not listed for an operation are ignored. A frame
with `OP = 0x1` is `XFER`, of which `CMD`, `DATA` and `DATABYTES` are expansions (rule R64; DEDUCED, log 4, safe). -/
def decodeFrame (f : Frame) : Instr :=
  match f.op.toNat with
  | 0 => .configure
  | 1 => .xfer f.byte f.flag
  | 2 => .reset
  | 3 => .init
  | 4 => .setWin f.a f.b f.c f.e
  | 5 => .pixel f.a f.b f.color
  | 6 => .line f.a f.b f.c f.e f.color
  | 7 => .rect f.a f.b f.c f.color f.flag
  | _ => .reservedOp f.op

/-! ## Wire words (rules R50, R54) -/

def WireWord.rs (w : WireWord) : Bool := w.getLsbD 8
def WireWord.byte (w : WireWord) : Byte := w.extractLsb' 0 8

/-- `{rs, b}` (rule R50). -/
def WireWord.build (rs : Bool) (b : Byte) : WireWord := BitVec.ofBool rs ++ b

/-- The 24 command opcodes with rows of their own (rule R54). -/
def commandRows : List (Byte × Instr) :=
  [(0x01#8, .script01), (0xCF#8, .scriptCF), (0xED#8, .scriptED), (0xE8#8, .scriptE8), (0xCB#8, .scriptCB),
   (0xF7#8, .scriptF7), (0xEA#8, .scriptEA), (0xC0#8, .scriptC0), (0xC1#8, .scriptC1), (0xC5#8, .scriptC5),
   (0xC7#8, .scriptC7), (0x36#8, .script36), (0x3A#8, .script3A), (0xB1#8, .scriptB1), (0xB6#8, .scriptB6),
   (0xF2#8, .scriptF2), (0x26#8, .script26), (0xE0#8, .scriptE0), (0xE1#8, .scriptE1), (0x11#8, .script11),
   (0x29#8, .script29), (0x2A#8, .winCol2A), (0x2B#8, .winRow2B), (0x2C#8, .memWrite2C)]

/-- The row a wire word belongs to: the specific command rows take precedence over the generic one. -/
def decodeWire (w : WireWord) : Instr :=
  if w.rs then .dataWord w.byte
  else match commandRows.find? (fun row => row.1 == w.byte) with
    | some row => row.2
    | none => .cmdWord w.byte

/-! ## Requests -/

/-- Why a request is not an instruction. -/
inductive DecodeError where
  /-- Two requests at once (rule R124). -/
  | concurrent
  deriving DecidableEq, Repr

/-- What a request asks for. -/
def decodeRequest : Request → Except DecodeError Instr
  | .frame f => .ok (decodeFrame f)
  | .invoke i => .ok i
  | .wire w => .ok (decodeWire w)
  | .overlapping _ _ => .error .concurrent

/-- The request that the opcode table's numbering of bits gives: a 96-bit frame, or a 9-bit wire word in as many
whole bytes (the bits above bit 8 zero). Rule R63: no other length exists. -/
def requestOfTableWord (nbits w : Nat) : Option Request :=
  if nbits = 96 then
    if w < 2 ^ 96 then some (.frame (BitVec.ofNat 96 w)) else none
  else if 9 ≤ nbits ∧ nbits ≤ 16 then
    if w < 2 ^ 9 then some (.wire (BitVec.ofNat 9 w)) else none
  else none

/-- The decoder on a word numbered as the opcode table numbers it. -/
def decodeTableWord (nbits w : Nat) : Option Instr :=
  match requestOfTableWord nbits w with
  | some r => (decodeRequest r).toOption
  | none => none

/-! ## Encoder (rules R50, R54, R60, R64) -/

/-- A wire word of the command `b`, as a request. -/
def commandRequest (b : Byte) : List Request := [.wire (WireWord.build false b)]

/-- The canonical frame of `XFER(b, isData)`. -/
def xferFrame (b : Byte) (isData : Bool) : Frame := Frame.build 1 isData 0 0 0 0 0 b

/-- The canonical requests of an instruction, in order: one frame or one wire word, except that `DATABYTES` of `n`
bytes is `n` frames (rule R64). -/
def encode : Instr → List Request
  | .configure => [.frame (Frame.build 0 false 0 0 0 0 0 0)]
  | .xfer b d => [.frame (xferFrame b d)]
  | .cmd b => [.frame (xferFrame b false)]
  | .data b => [.frame (xferFrame b true)]
  | .dataBytes bs => bs.map (fun b => .frame (xferFrame b true))
  | .reset => [.frame (Frame.build 2 false 0 0 0 0 0 0)]
  | .init => [.frame (Frame.build 3 false 0 0 0 0 0 0)]
  | .setWin x1 y1 x2 y2 => [.frame (Frame.build 4 false x1 y1 x2 y2 0 0)]
  | .pixel x y color => [.frame (Frame.build 5 false x y 0 0 color 0)]
  | .line x1 y1 x2 y2 color => [.frame (Frame.build 6 false x1 y1 x2 y2 color 0)]
  | .rect x y size color filled => [.frame (Frame.build 7 filled x y size 0 color 0)]
  | .reservedOp op => [.frame (Frame.build op false 0 0 0 0 0 0)]
  | .script01 => commandRequest 0x01
  | .scriptCF => commandRequest 0xCF
  | .scriptED => commandRequest 0xED
  | .scriptE8 => commandRequest 0xE8
  | .scriptCB => commandRequest 0xCB
  | .scriptF7 => commandRequest 0xF7
  | .scriptEA => commandRequest 0xEA
  | .scriptC0 => commandRequest 0xC0
  | .scriptC1 => commandRequest 0xC1
  | .scriptC5 => commandRequest 0xC5
  | .scriptC7 => commandRequest 0xC7
  | .script36 => commandRequest 0x36
  | .script3A => commandRequest 0x3A
  | .scriptB1 => commandRequest 0xB1
  | .scriptB6 => commandRequest 0xB6
  | .scriptF2 => commandRequest 0xF2
  | .script26 => commandRequest 0x26
  | .scriptE0 => commandRequest 0xE0
  | .scriptE1 => commandRequest 0xE1
  | .script11 => commandRequest 0x11
  | .script29 => commandRequest 0x29
  | .winCol2A => commandRequest 0x2A
  | .winRow2B => commandRequest 0x2B
  | .memWrite2C => commandRequest 0x2C
  | .dataWord b => [.wire (WireWord.build true b)]
  | .cmdWord b => commandRequest b

end Sys2Proof
end

