-- ==== Sys2Proof/Config.lean ====
section
/-! DEFINITION. The parameters of rule R5 and the free values. The values this hardware takes stand in
Machine/Params.lean; every operation takes its configuration as an argument. -/

namespace Sys2Proof

/-- The two values of a policy parameter: the behaviour of the code the document was written from, or the
behaviour the document describes as the fix (glossary of 00_scope.md; rule R5). -/
inductive Policy where
  | reference
  | corrected
  deriving DecidableEq, Repr

/-- The thirteen pin roles: five control pins and data pin `i`, `i = 0 .. 7` (rules R11, R12; glossary). -/
inductive PinRole where
  | rd
  | wr
  | rs
  | cs
  | rst
  | data (i : Fin 8)
  deriving DecidableEq, Repr

/-- The position of a role in the list of thirteen: the control pins in the order of rule R11, then the data pins. -/
def PinRole.index : PinRole → Nat
  | .rd => 0
  | .wr => 1
  | .rs => 2
  | .cs => 3
  | .rst => 4
  | .data i => 5 + i

/-- The parameters of rule R5, fixed before power-up; no operation changes them (rule R19). -/
structure Config where
  /-- `T_STROBE_US`: the minimum strobe width asked of the delay provider, in microseconds. -/
  tStrobeUs : Nat
  /-- `RS_IDLE`: the level `CONFIGURE` gives `RS`. -/
  rsIdle : Bool
  /-- `RST_IDLE`: the level `CONFIGURE` gives `RST`. -/
  rstIdle : Bool
  /-- `PIXEL_LOW_BYTE`: what `PIXEL` sends as its second byte (rule R101). -/
  pixelLowByte : Policy
  /-- `LINE_STEEP`: whether a steep general line is drawn (rule R108). -/
  lineSteep : Policy
  /-- `PINS`: the assignment of platform pin identities, as a permutation of the identities: role number
  `r.index` is on pin `pins r.index`. Every injective map from the thirteen roles is of this form. -/
  pins : Equiv.Perm Nat

/-- The platform pin identity of a role under `PINS` (rule R5). -/
def Config.pinOf (c : Config) (r : PinRole) : Nat := c.pins r.index

/-- DESIGN CHOICE (log 15). FREE VALUE: `PINS` is OPEN (rule R5, decision D26); nothing constrains it but that the
thirteen identities are distinct, which a permutation gives. Safe: no rule depends on its value. -/
opaque Config.platformPins : Equiv.Perm Nat

/-- DESIGN CHOICE (log 13). FREE VALUE: the level the platform gives control role number `n` when `CONFIGURE` claims
it, before its first write (rule R70, corner cases: "this spec gives them no value"). Safe: no level is assumed. -/
opaque Config.claimedLevel : Nat → Bool

/-- DESIGN CHOICE (log 13). FREE VALUE: the levels the platform gives the eight data pins when `CONFIGURE` claims them,
before their first write (rule R70, corner cases). Safe: no level is assumed. -/
opaque Config.claimedData : Byte

/-- DESIGN CHOICE (log 7). FREE VALUE: the receiver's window registers when rule R41 gives no information about
them, for the `n`-th time. Safe: a statement holds for every value of them. -/
opaque Config.freeWindow : Nat → Window

/-- DESIGN CHOICE (log 10). FREE VALUE: whether the receiver accepted the `n`-th word strobed, which rule R41 gives no
information about ("Unverified hardware acceptance"). Safe: a statement holds for every value of it. -/
opaque Config.wordAccepted : Nat → Bool

end Sys2Proof
end

