-- ==== Sys2Proof/Machine/State.lean ====
section
/-! DEFINITION. The state of the block, of its host interface and of the receiver, as plain data (rules R10 to R27, R38 to
R41), and the state after power-up (rule R26). -/

namespace Sys2Proof.Machine

/-- The five control signals (rule R11). -/
inductive Signal where
  | rd
  | wr
  | rs
  | cs
  | rst
  deriving DecidableEq, Repr

/-- A control latch: 0, 1, or `Unclaimed`, which is neither (rules R10, R14). -/
inductive Level where
  | unclaimed
  | low
  | high
  deriving DecidableEq, Repr

/-- The eight data latches `D[0] .. D[7]` as one byte, or all eight unclaimed (rules R12, R14). -/
inductive DataLatch where
  | unclaimed
  | byte (b : Byte)
  deriving DecidableEq, Repr

/-- The thirteen output latches (rules R11, R12). -/
structure Latches where
  rd : Level
  wr : Level
  rs : Level
  cs : Level
  rst : Level
  d : DataLatch
  deriving DecidableEq, Repr

/-- ControllerLifecycleState (rule R16). -/
inductive Lifecycle where
  | uninitialized
  | resetting
  | runningInitScript
  | awakeReady
  deriving DecidableEq, Repr

/-- What an operation returns to its caller (rules R18, R121). -/
inductive Status where
  | ok
  | outOfBounds
  deriving DecidableEq, Repr

/-- The `info` of a report: the mnemonic and the coordinates of the invocation that failed, unwrapped (rules R18, R110). -/
inductive ReportInfo where
  | pixel (x y : Nat)
  | line (x1 y1 x2 y2 : Nat)
  deriving DecidableEq, Repr

/-- A record of the reporting channel. OutOfBounds is the only error kind (rules R18, R120). -/
inductive ReportRecord where
  | outOfBounds (info : ReportInfo)
  deriving DecidableEq, Repr

/-- One event of the trace (rule R22). -/
inductive Event where
  /-- All thirteen pins become outputs. -/
  | claim
  /-- Control latch `s` written with level `l`. -/
  | drive (s : Signal) (l : Bool)
  /-- The eight data latches written with the bits of `b`. -/
  | data (b : Byte)
  /-- The block waited at least `us` microseconds. -/
  | delay (us : Nat)
  /-- A record was appended to the reporting channel. -/
  | report (r : ReportRecord)
  deriving DecidableEq, Repr

/-- The receiver's frame memory: (byte address, byte) pairs, addresses strictly rising; an address not listed has no
specified contents (rule R41; log 8). -/
abbrev Memory := List Host.Cell

/-- Where the receiver stands in what it is sent (rules R39 to R41): the last command, the payload count and the write
position of decision D24. -/
inductive Phase where
  /-- Nothing is known of the receiver (rule R41; log 6). -/
  | unspecified
  /-- `RST` has risen, and `words` words have been accepted since; nothing else is known (rule R41; log 6). -/
  | sinceReset (words : Nat)
  /-- It awaits a command word. -/
  | idle
  /-- After `0x2A`, with fewer than four payload bytes taken, oldest first. -/
  | colSet (got : List Byte)
  /-- After `0x2B`, with fewer than four payload bytes taken, oldest first. -/
  | rowSet (got : List Byte)
  /-- After `0x2C`: `n` whole cells written since, and the first byte of the next when it has been taken. -/
  | stream (n : Nat) (first : Option Byte)
  deriving DecidableEq, Repr

/-- The receiver, as environment (rules R38 to R41, decision D24). -/
structure Receiver where
  phase : Phase
  /-- The four window registers (rule R39). -/
  window : Window
  /-- The frame memory (rules R32, R40). -/
  gram : Memory
  /-- How many draws of free values have been made (the model's own counter, log 7). -/
  draws : Nat
  /-- How many words have been strobed, accepted or not (the model's own counter, log 10). -/
  strobes : Nat
  deriving DecidableEq, Repr

structure State where
  /-- `pin` and `D` (rules R11, R12). -/
  latches : Latches
  /-- The configured flag (rule R15). -/
  cfg : Bool
  /-- The lifecycle state (rule R16). -/
  lc : Lifecycle
  /-- The observation history, oldest first (rule R22). -/
  trace : List Event
  /-- The reporting channel, oldest first (rule R18). -/
  report : List ReportRecord
  /-- The statuses returned to the host, oldest first (rule R18; the model's own field, log 5). -/
  returns : List Status
  /-- The host's requests not yet performed, next first (rules R13, R57; the model's own field, log 1). -/
  pending : List Request
  /-- The receiver on the far side of the pins (rules R38 to R41). -/
  receiver : Receiver
  deriving DecidableEq, Repr

/-- No operation of the block aborts, halts or fails to return (rule R123), so there is no fault: out-of-bounds input is
a report (rule R120) and a contract violation a refusal (rule R124). No constructor, so no one raises one. -/
inductive Fault where
  deriving DecidableEq, Repr

/-- The reasons of rule R124 for which a request gets no step. Each is safe: nothing is claimed of what follows. -/
inductive Refusal where
  /-- An instruction that has no meaning yet; raised by `exec` alone. Safe. -/
  | notModelled (mnemonic : String)
  /-- Any operation but `CONFIGURE` while `cfg = false`; raised by every meaning but `CONFIGURE`'s. Safe. -/
  | notConfigured
  /-- `CONFIGURE` while `cfg = true`; raised by `CONFIGURE`. Safe. -/
  | alreadyConfigured
  /-- `INIT` while `lc` is not `RunningInitScript`; `SETWIN`, `PIXEL`, `LINE`, `RECT` while `lc` is not `AwakeReady`;
  raised by these five. Safe. -/
  | wrongLifecycle
  /-- `SETWIN` with operands that are no AddressWindow; raised by `SETWIN`. Safe. -/
  | badWindow
  /-- A frame with `OP` in `0x8 .. 0xF`; raised by the reserved row. Safe. -/
  | reservedOp
  /-- A second request while one is running; raised by `step`. Safe. -/
  | concurrent
  deriving DecidableEq, Repr

/-- The outcome of one operation. -/
abbrev Outcome := Host.Outcome State Fault Refusal

/-- All thirteen latches `Unclaimed` (rule R26). -/
def Latches.powerUp : Latches :=
  ⟨.unclaimed, .unclaimed, .unclaimed, .unclaimed, .unclaimed, .unclaimed⟩

/-- The receiver at power-up: unspecified (rules R26, R41). Its window registers are draw 0 of the free values. -/
def Receiver.powerUp : Receiver :=
  { phase := .unspecified, window := Config.freeWindow 0, gram := [], draws := 1, strobes := 0 }

/-- The machine at power-up (rule R26); no request is pending and no operation has returned (log 1, log 5). -/
def State.reset : State :=
  { latches := Latches.powerUp
    cfg := false
    lc := .uninitialized
    trace := []
    report := []
    returns := []
    pending := []
    receiver := Receiver.powerUp }

end Sys2Proof.Machine
end

