-- ==== Sys2Proof/Machine/Flags.lean ====
section
/-! DEFINITION. The block has no flags (rule R18); what stands in their place is the status of an invocation and the two
numberings the spec gives (rules R16, R121). -/

namespace Sys2Proof.Machine

/-- The status of an invocation that invoked two others: `OutOfBounds` when either was (rule R18). -/
def Status.both : Status → Status → Status
  | .ok, st => st
  | .outOfBounds, _ => .outOfBounds

/-- The numeric form of a status (rule R121). -/
def Status.code : Status → Nat
  | .ok => 0
  | .outOfBounds => 1

/-- The numbers of the lifecycle states (rule R16). -/
def Lifecycle.code : Lifecycle → Nat
  | .uninitialized => 0
  | .resetting => 1
  | .runningInitScript => 2
  | .awakeReady => 3

end Sys2Proof.Machine
end

