-- ==== Sys2Proof/Machine/Memory.lean ====
section
/-! DEFINITION. Byte-addressed frame memory in canonical form (rules R32, R40, R41; log 8). -/

namespace Sys2Proof.Machine

/-- The number of bytes of frame memory: 240 x 320 cells of two bytes (rule R32). -/
def Memory.size : Nat := 153600

/-- What the byte at `a` holds, or `none` where rule R41 gives no information. -/
def Memory.read (m : Memory) (a : Nat) : Option Byte :=
  match m with
  | [] => none
  | c :: rest => if c.1 = a then some c.2 else Memory.read rest a

/-- Write one byte, keeping the addresses rising. -/
def Memory.write (m : Memory) (a : Nat) (b : Byte) : Memory :=
  match m with
  | [] => [(a, b)]
  | c :: rest =>
    if a < c.1 then (a, b) :: c :: rest
    else if a = c.1 then (a, b) :: rest
    else c :: Memory.write rest a b

/-- Lose what is known of one byte (rule R41). -/
def Memory.forget (m : Memory) (a : Nat) : Memory :=
  m.filter (fun c => c.1 != a)

/-- The canonical form: addresses strictly rising, all inside the frame memory. -/
abbrev Memory.wf (m : Memory) : Prop :=
  m.Pairwise (fun c c' => c.1 < c'.1) ∧ ∀ c ∈ m, c.1 < Memory.size

/-- The byte address of the high byte of cell `(col, row)`; its low byte is at the next address (rule R34; DESIGN CHOICE,
log 8, safe: the spec names cells by column and row only). -/
def cellAddr (col row : Nat) : Nat := 2 * (240 * row + col)

end Sys2Proof.Machine
end

