-- ==== Sys2Proof/Machine/Params.lean ====
section
/-! DEFINITION. The constants of rules R4 and R5 and the values of the parameters for this hardware. -/

namespace Sys2Proof.Machine

/-- `WIDTH` (rule R4). -/
abbrev width : Nat := 240

/-- `HEIGHT` (rule R4). -/
abbrev height : Nat := 320

/-- `T_RST_HIGH1_US` (rule R5). -/
def tRstHigh1Us : Nat := 5000

/-- `T_RST_LOW_US` (rule R5). -/
def tRstLowUs : Nat := 15000

/-- `T_RST_HIGH2_US` (rule R5). -/
def tRstHigh2Us : Nat := 15000

/-- `T_SWRESET_US` (rule R5). -/
def tSwResetUs : Nat := 5000

/-- `T_SLPOUT_US` (rule R5). -/
def tSlpOutUs : Nat := 120000

/-- `T_DISPON_US` (rule R5). -/
def tDispOnUs : Nat := 100000

/-- The parameters with the values this hardware takes (rule R5; log 14). -/
def hardware : Config :=
  { tStrobeUs := 1
    rsIdle := true
    rstIdle := true
    pixelLowByte := .reference
    lineSteep := .reference
    pins := Config.platformPins }

end Sys2Proof.Machine
end

