-- ==== Sys2Proof/Machine/Operands.lean ====
section
/-! DEFINITION. Operand forms: the split of 16-bit values (rule R55), the in-frame test (rule R100), the AddressWindow
invariant (rule R91), the fields of a Color (rule R56), and `sign` (rule R6). -/

namespace Sys2Proof.Machine

/-- `hi8(v) = v[15:8]` (rule R55). -/
def hi8 (v : U16) : Byte := v.extractLsb' 8 8

/-- `lo8(v) = v[7:0]` (rule R55). -/
def lo8 (v : U16) : Byte := v.extractLsb' 0 8

/-- `{h, l}`: the 16-bit value whose high byte is `h` (rules R34, R39, R40). -/
def joinBytes (h l : Byte) : U16 := h ++ l

/-- `x < WIDTH` and `y < HEIGHT` (rule R100), on unwrapped coordinates (rule R110). -/
def inFrame (x y : Nat) : Bool := x < width && y < height

/-- "0 ≤ x1 ≤ x2 < frame width, 0 ≤ y1 ≤ y2 < frame height" (rule R91). -/
def isAddressWindow (x1 y1 x2 y2 : Nat) : Bool :=
  x1 ≤ x2 && x2 < width && y1 ≤ y2 && y2 < height

/-- The red field of a Color. PRESUMED (log 17, rule R56), safe: no operation reads it. -/
def colorRed (c : U16) : BitVec 5 := c.extractLsb' 11 5

/-- The green field of a Color. PRESUMED (log 17, rule R56), safe: no operation reads it. -/
def colorGreen (c : U16) : BitVec 6 := c.extractLsb' 5 6

/-- The blue field of a Color. PRESUMED (log 17, rule R56), safe: no operation reads it. -/
def colorBlue (c : U16) : BitVec 5 := c.extractLsb' 0 5

/-- `sign(a)` (rule R6). -/
def sign (a : Int) : Int := if a > 0 then 1 else if a < 0 then -1 else 0

end Sys2Proof.Machine
end

