-- ==== Sys2Proof/Machine/Receiver.lean ====
section
/-! DEFINITION. The receiver as environment (rules R38 to R41, R47; decision D24). It moves only by what it senses on the
pins; no operation of the block reads it. -/

namespace Sys2Proof.Machine

/-- `xs <= xe` within the columns of the frame. -/
def columnsValid (w : Window) : Bool := w.xs.toNat ≤ w.xe.toNat && w.xe.toNat < width

/-- `ys <= ye` within the rows of the frame. -/
def rowsValid (w : Window) : Bool := w.ys.toNat ≤ w.ye.toNat && w.ye.toNat < height

/-- `w = xe - xs + 1` (rule R40). -/
def windowColumns (w : Window) : Nat := w.xe.toNat - w.xs.toNat + 1

/-- The number of cells of a window. -/
def windowCells (w : Window) : Nat := windowColumns w * (w.ye.toNat - w.ys.toNat + 1)

/-- The byte address of the `n`-th cell of the stream: `col = xs + (n mod w)`, `row = ys + (n div w)` (rule R40). -/
def streamAddr (w : Window) (n : Nat) : Nat :=
  cellAddr (w.xs.toNat + n % windowColumns w) (w.ys.toNat + n / windowColumns w)

/-- Rule R41: from here nothing is known of the receiver. Its registers take a free value and no byte of frame memory
has specified contents. DESIGN CHOICE (log 6, log 7), safe: no information is kept. -/
def Receiver.lose (r : Receiver) : Receiver :=
  { r with phase := .unspecified, window := Config.freeWindow r.draws, gram := [], draws := r.draws + 1 }

/-- The payload of `0x2A` as far as it has come: the fourth byte sets the column range (rule R39). A range that is
reversed or beyond the frame is unspecified (rule R41). -/
def Receiver.takeColumns (r : Receiver) : List Byte → Receiver
  | [b0, b1, b2, b3] =>
    let w := { r.window with xs := joinBytes b0 b1, xe := joinBytes b2 b3 }
    if columnsValid w then { r with phase := .idle, window := w } else r.lose
  | got => { r with phase := .colSet got }

/-- The payload of `0x2B` as far as it has come: the fourth byte sets the row range (rules R39, R41). -/
def Receiver.takeRows (r : Receiver) : List Byte → Receiver
  | [b0, b1, b2, b3] =>
    let w := { r.window with ys := joinBytes b0 b1, ye := joinBytes b2 b3 }
    if rowsValid w then { r with phase := .idle, window := w } else r.lose
  | got => { r with phase := .rowSet got }

/-- A command word that arrives where one is awaited (rules R39, R40). The effect of every other opcode is
unspecified (rules R41, R62; log 11). -/
def Receiver.startCommand (r : Receiver) (b : Byte) : Receiver :=
  if b = 0x2A then { r with phase := .colSet [] }
  else if b = 0x2B then { r with phase := .rowSet [] }
  else if b = 0x2C then
    if columnsValid r.window && rowsValid r.window then { r with phase := .stream 0 none } else r.lose
  else r.lose

/-- A command word. One that arrives inside a payload or between the two bytes of a pixel is unspecified (rule R41);
one that arrives between whole pixels ends the stream (rule R53; PRESUMED, log 12). Between a reset and the end of
`INIT` words are only counted (log 6). -/
def Receiver.command (r : Receiver) (b : Byte) : Receiver :=
  match r.phase with
  | .idle => r.startCommand b
  | .stream _ none => r.startCommand b
  | .stream _ (some _) => r.lose
  | .colSet _ => r.lose
  | .rowSet _ => r.lose
  | .sinceReset n => { r with phase := .sinceReset (n + 1) }
  | .unspecified => r.lose

/-- A data word: a payload byte (rule R39) or a byte of a pixel, high byte first (rule R40). Between the two bytes the
cell is unspecified (rule R47). A byte with no command, beyond a payload or beyond the window is unspecified (R41). -/
def Receiver.dataByte (r : Receiver) (b : Byte) : Receiver :=
  match r.phase with
  | .colSet got => r.takeColumns (got ++ [b])
  | .rowSet got => r.takeRows (got ++ [b])
  | .stream n none =>
    if n < windowCells r.window then
      let a := streamAddr r.window n
      { r with phase := .stream n (some b), gram := (r.gram.forget a).forget (a + 1) }
    else r.lose
  | .stream n (some h) =>
    let a := streamAddr r.window n
    { r with phase := .stream (n + 1) none, gram := (r.gram.write a h).write (a + 1) b }
  | .idle => r.lose
  | .sinceReset n => { r with phase := .sinceReset (n + 1) }
  | .unspecified => r.lose

/-- What one wire word does to a receiver that accepts it (rule R38). -/
def Receiver.take (r : Receiver) (rs : Bool) (b : Byte) : Receiver :=
  if rs then r.dataByte b else r.command b

/-- A word strobed while `RST` stands at `rst`. Whether the receiver accepts it is a free value (rule R41; log 10); one
it does not accept, or that comes while `RST` is not 1 (log 6), leaves the receiver unspecified. Safe. -/
def Receiver.accept (r : Receiver) (rst : Level) (rs : Bool) (b : Byte) : Receiver :=
  { (if rst = .high ∧ Config.wordAccepted r.strobes then r.take rs b else r.lose) with strobes := r.strobes + 1 }

/-- The word strobed by a change of the latches: `WR` returns to 1 while `CS = 0`. PRESUMED (log 9), safe: rule R38
shows that every instant of the strobe gives the same word. -/
def strobedWord (before after : Latches) : Option (Bool × Byte) :=
  if before.wr = .low ∧ after.wr = .high ∧ after.cs = .low then
    match after.rs, after.d with
    | .low, .byte b => some (false, b)
    | .high, .byte b => some (true, b)
    | _, _ => none
  else none

/-- `RST` changes from `before` to `after`: going to 0 it leaves the receiver unspecified, and rising it begins the count
of words since (rule R41; log 6, safe). -/
def Receiver.senseReset (r : Receiver) (before after : Level) : Receiver :=
  if before ≠ .low ∧ after = .low then r.lose
  else if before = .low ∧ after = .high then { r with phase := .sinceReset 0 }
  else r

/-- What the receiver does when the latches change: it is sent the strobed word, or senses `RST`. -/
def Receiver.sense (r : Receiver) (before after : Latches) : Receiver :=
  match strobedWord before after with
  | some (rs, b) => r.accept after.rst rs b
  | none => r.senseReset before.rst after.rst

/-- The receiver after the `n` words of a whole `INIT`. When they are all it was sent since its reset, and it accepted
them, it awaits commands in the 16-bit pixel format the script selects (rule R40), with windows and memory unspecified
(rule R41): DEDUCED (log 6), unsafe if the script's delays or bytes do not suffice. After any other words, such as a
command whose payload the script's first word cuts short, it is unspecified (rule R41). -/
def Receiver.broughtUp (r : Receiver) (n : Nat) : Receiver :=
  if r.phase = .sinceReset n then { r.lose with phase := .idle } else r.lose

end Sys2Proof.Machine
end

