-- ==== Sys2Proof/Machine/Ops.lean ====
section
/-! DEFINITION. The named operations over the latches, the trace and the report channel: pin writes, delays, the one bus
write, raising OutOfBounds and returning from an operation (rules R6, R18, R23, R25, R30, R71, R120, R128). -/

namespace Sys2Proof.Machine

/-- The level of a bit. -/
def Level.ofBit : Bool → Level
  | false => .low
  | true => .high

/-- The level of one control latch. -/
def Latches.get (ls : Latches) : Signal → Level
  | .rd => ls.rd
  | .wr => ls.wr
  | .rs => ls.rs
  | .cs => ls.cs
  | .rst => ls.rst

/-- One control latch set to a level. -/
def Latches.set (ls : Latches) (s : Signal) (l : Level) : Latches :=
  match s with
  | .rd => { ls with rd := l }
  | .wr => { ls with wr := l }
  | .rs => { ls with rs := l }
  | .cs => { ls with cs := l }
  | .rst => { ls with rst := l }

/-- The latches just claimed: the level of each is the platform's, a free value (rule R70, corner cases; log 13). -/
def Latches.claimed : Latches :=
  { rd := Level.ofBit (Config.claimedLevel 0)
    wr := Level.ofBit (Config.claimedLevel 1)
    rs := Level.ofBit (Config.claimedLevel 2)
    cs := Level.ofBit (Config.claimedLevel 3)
    rst := Level.ofBit (Config.claimedLevel 4)
    d := .byte Config.claimedData }

/-! ## Pin writes, delays (rules R23, R25) -/

/-- Claim all thirteen pins as outputs. The receiver may see any levels, so nothing is known of it (log 13). -/
def claimPins (s : State) : State :=
  { s with latches := Latches.claimed, trace := s.trace ++ [.claim], receiver := s.receiver.lose }

/-- `pin[sig] <- l` while the pins are being claimed: "nothing is strobed in that interval" (rule R70), so the receiver
takes no word. -/
def settle (sig : Signal) (l : Bool) (s : State) : State :=
  { s with latches := s.latches.set sig (Level.ofBit l), trace := s.trace ++ [.drive sig l] }

/-- `pin[sig] <- l` (rule R23): one `Drive` event whether or not the level changes; the receiver senses the pins. -/
def drive (sig : Signal) (l : Bool) (s : State) : State :=
  { settle sig l s with receiver := s.receiver.sense s.latches (s.latches.set sig (Level.ofBit l)) }

/-- `D <- b` (rule R23): one `Data` event for the eight data latches. -/
def output (b : Byte) (s : State) : State :=
  { s with latches := { s.latches with d := .byte b }, trace := s.trace ++ [.data b] }

/-- `delay(us)` (rule R25). -/
def delay (us : Nat) (s : State) : State :=
  { s with trace := s.trace ++ [.delay us] }

/-- `lc <- l` (rule R16). -/
def setLifecycle (l : Lifecycle) (s : State) : State := { s with lc := l }

/-! ## The bus write (rules R30, R71) -/

/-- `BusWrite(isData, b)`, the pin sequence of `XFER(b, isData)` (rule R71). -/
def busWrite (c : Config) (isData : Bool) (b : Byte) (s : State) : State :=
  let s := drive .rs isData s
  let s := drive .cs false s
  let s := output b s
  let s := drive .wr false s
  let s := delay c.tStrobeUs s
  let s := drive .wr true s
  drive .cs true s

/-- The wire word of `CMD(op)` (rule R80). -/
def cmdWord (op : Byte) : Bool × Byte := (false, op)

/-- The wire word of `DATA(b)` (rule R81). -/
def dataWord (b : Byte) : Bool × Byte := (true, b)

/-- Bus writes one after another, in the order of the list (rules R31, R82). -/
def busWrites (c : Config) (ws : List (Bool × Byte)) (s : State) : State :=
  ws.foldl (fun s w => busWrite c w.1 w.2 s) s

/-! ## Raising OutOfBounds, and returning (rules R18, R120, R127, R128) -/

/-- `raise OutOfBounds(info)`: one record to the reporting channel and to the trace, and the status `OutOfBounds`;
nothing else (rule R120). -/
def raiseOutOfBounds (info : ReportInfo) (s : State) : State × Status :=
  ({ s with report := s.report ++ [.outOfBounds info], trace := s.trace ++ [.report (.outOfBounds info)] },
   .outOfBounds)

/-- The return of an operation to the host with a status (rules R18, R128; log 5). -/
def finish (r : State × Status) : Outcome :=
  .next { r.1 with returns := r.1.returns ++ [r.2] }

/-- Invocations run one after another, each to completion (rule R7); the status is `OutOfBounds` if any was (rule R18). -/
def inOrder : List (State → State × Status) → State → State × Status
  | [], s => (s, .ok)
  | op :: rest, s =>
    let r := op s
    let r' := inOrder rest r.1
    (r'.1, r.2.both r'.2)

/-! ## Preconditions (rule R124) -/

/-- `require cfg = true else refuse(NotConfigured)`. -/
def whenConfigured (s : State) (k : Outcome) : Outcome :=
  if s.cfg then k else .refused .notConfigured

/-- `require lc = l else refuse(WrongLifecycle)`. -/
def whenLifecycle (l : Lifecycle) (s : State) (k : Outcome) : Outcome :=
  if s.lc = l then k else .refused .wrongLifecycle

/-- One bus write requested by the host, under the precondition of rule R71. -/
def transfer (c : Config) (isData : Bool) (b : Byte) (s : State) : Outcome :=
  whenConfigured s (finish (busWrite c isData b s, .ok))

end Sys2Proof.Machine
end

