-- ==== Sys2Proof/Machine/BusDriver.lean ====
section
/-! DEFINITION. The Bus Driver operations `CONFIGURE` and `XFER` (rules R70, R71). -/

namespace Sys2Proof.Machine

/-- The body of `CONFIGURE` (rule R70). -/
def configureBody (c : Config) (s : State) : State :=
  let s := claimPins s
  let s := settle .rd true s
  let s := settle .wr true s
  let s := settle .rs c.rsIdle s
  let s := settle .cs true s
  let s := settle .rst c.rstIdle s
  let s := output 0x00 s
  { s with cfg := true }

/-- `CONFIGURE` under any configuration (rule R70). -/
def configure (c : Config) (s : State) : Outcome :=
  if s.cfg then .refused .alreadyConfigured else finish (configureBody c s, .ok)

/-- `CONFIGURE()` (rule R70). -/
def execConfigure (s : State) : Outcome := configure hardware s

/-- `XFER(byte, isData)` (rule R71). -/
def execXfer (byte : Byte) (isData : Bool) (s : State) : Outcome := transfer hardware isData byte s

end Sys2Proof.Machine
end

