-- ==== Sys2Proof/Machine/CommandLayer.lean ====
section
/-! DEFINITION. The Command Layer operations `CMD`, `DATA` and `DATABYTES` (rules R80 to R82). -/

namespace Sys2Proof.Machine

/-- `CMD(opcode)` (rule R80): every opcode is passed through. -/
def execCmd (opcode : Byte) (s : State) : Outcome := transfer hardware false opcode s

/-- `DATA(byte)` (rule R81). -/
def execData (byte : Byte) (s : State) : Outcome := transfer hardware true byte s

/-- `DATABYTES` under any configuration: `DATA` of each byte in order (rule R82). -/
def dataBytes (c : Config) (bytes : List Byte) (s : State) : Outcome :=
  whenConfigured s (finish (busWrites c (bytes.map dataWord) s, .ok))

/-- `DATABYTES(bytes)` (rule R82). -/
def execDataBytes (bytes : List Byte) (s : State) : Outcome := dataBytes hardware bytes s

end Sys2Proof.Machine
end

