-- ==== Sys2Proof/Machine/Script.lean ====
section
/-! DEFINITION. The literal initialization script (rules R54, R88). -/

namespace Sys2Proof.Machine

/-- One entry of the script: an opcode, its payload in the order sent, and the wait after it in microseconds. -/
structure ScriptEntry where
  opcode : Byte
  payload : List Byte
  waitUs : Nat
  deriving DecidableEq, Repr

/-- `INIT_SCRIPT` (rule R88): 21 entries, order fixed. -/
def initScript : List ScriptEntry :=
  [⟨0x01, [], tSwResetUs⟩,
   ⟨0xCF, [0x00, 0x81, 0x30], 0⟩,
   ⟨0xED, [0x64, 0x03, 0x12, 0x81], 0⟩,
   ⟨0xE8, [0x85, 0x10, 0x78], 0⟩,
   ⟨0xCB, [0x39, 0x2C, 0x00, 0x34, 0x02], 0⟩,
   ⟨0xF7, [0x20], 0⟩,
   ⟨0xEA, [0x00, 0x00], 0⟩,
   ⟨0xC0, [0x21], 0⟩,
   ⟨0xC1, [0x11], 0⟩,
   ⟨0xC5, [0x3F, 0x3C], 0⟩,
   ⟨0xC7, [0xB5], 0⟩,
   ⟨0x36, [0x48], 0⟩,
   ⟨0x3A, [0x55], 0⟩,
   ⟨0xB1, [0x00, 0x18], 0⟩,
   ⟨0xB6, [0x0A, 0xA2], 0⟩,
   ⟨0xF2, [0x00], 0⟩,
   ⟨0x26, [0x01], 0⟩,
   ⟨0xE0, [0x0F, 0x23, 0x1F, 0x0B, 0x0E, 0x08, 0x4B, 0xA8, 0x3B, 0x0A, 0x14, 0x06, 0x10, 0x09, 0x00], 0⟩,
   ⟨0xE1, [0x00, 0x1C, 0x20, 0x04, 0x10, 0x08, 0x34, 0x47, 0x44, 0x05, 0x0B, 0x09, 0x2F, 0x36, 0x0F], 0⟩,
   ⟨0x11, [], tSlpOutUs⟩,
   ⟨0x29, [], tDispOnUs⟩]

end Sys2Proof.Machine
end

