-- ==== Sys2Proof/Machine/Sequencer.lean ====
section
/-! DEFINITION. The Controller Sequencer operations `RESET`, `INIT` and `SETWIN` (rules R85, R87, R91, R92). -/

namespace Sys2Proof.Machine

/-- The body of `RESET` (rule R85). -/
def resetBody (s : State) : State :=
  let s := setLifecycle .resetting s
  let s := delay tRstHigh1Us (drive .rst true s)
  let s := delay tRstLowUs (drive .rst false s)
  let s := delay tRstHigh2Us (drive .rst true s)
  setLifecycle .runningInitScript s

/-- `RESET()` (rule R85): any value of `lc` is accepted. -/
def execReset (s : State) : Outcome := whenConfigured s (finish (resetBody s, .ok))

/-- One entry of the script: the command, its payload, and the wait if there is one (rule R87). -/
def runEntry (c : Config) (e : ScriptEntry) (s : State) : State :=
  let s := busWrites c (cmdWord e.opcode :: e.payload.map dataWord) s
  if e.waitUs > 0 then delay e.waitUs s else s

/-- The entries of a script in order (rule R87). -/
def runScript (c : Config) (script : List ScriptEntry) (s : State) : State :=
  script.foldl (fun s e => runEntry c e s) s

/-- How many bus words a script sends (rule R89). -/
def scriptWords (script : List ScriptEntry) : Nat := (script.map (fun e => 1 + e.payload.length)).sum

/-- The body of `INIT` (rule R87). The receiver is then as a whole `INIT` leaves it (rule R40; log 6). -/
def initBody (c : Config) (s : State) : State :=
  let s := setLifecycle .awakeReady (runScript c initScript s)
  { s with receiver := s.receiver.broughtUp (scriptWords initScript) }

/-- `INIT` under any configuration (rule R87). -/
def initialise (c : Config) (s : State) : Outcome :=
  whenConfigured s (whenLifecycle .runningInitScript s (finish (initBody c s, .ok)))

/-- `INIT()` (rule R87). -/
def execInit (s : State) : Outcome := initialise hardware s

/-- The eleven wire words of a window-set (rules R52, R91). -/
def windowWords (x1 y1 x2 y2 : U16) : List (Bool × Byte) :=
  [cmdWord 0x2A, dataWord (hi8 x1), dataWord (lo8 x1), dataWord (hi8 x2), dataWord (lo8 x2),
   cmdWord 0x2B, dataWord (hi8 y1), dataWord (lo8 y1), dataWord (hi8 y2), dataWord (lo8 y2),
   cmdWord 0x2C]

/-- `SETWIN` under any configuration (rules R91, R92). -/
def setWindow (c : Config) (x1 y1 x2 y2 : U16) (s : State) : Outcome :=
  whenConfigured s (whenLifecycle .awakeReady s (
    if isAddressWindow x1.toNat y1.toNat x2.toNat y2.toNat then finish (busWrites c (windowWords x1 y1 x2 y2) s, .ok)
    else .refused .badWindow))

/-- `SETWIN(x1, y1, x2, y2)` (rule R91). -/
def execSetWin (x1 y1 x2 y2 : U16) (s : State) : Outcome := setWindow hardware x1 y1 x2 y2 s

end Sys2Proof.Machine
end

