-- ==== Sys2Proof/Machine/Raster.lean ====
section
/-! DEFINITION. The Rasterization Engine operations `PIXEL`, `LINE` and `RECT` (rules R100 to R113). Coordinates are
natural numbers inside the operations, so that `RECT`'s sums do not wrap (rule R110). -/

namespace Sys2Proof.Machine

/-! ## PIXEL (rule R101) -/

/-- The second byte of a pixel (rule R101). -/
def pixelLowByte (c : Config) (color : U16) : Byte :=
  match c.pixelLowByte with
  | .reference => 0xFF
  | .corrected => lo8 color

/-- The thirteen wire words of an in-frame pixel: a window-set of one cell, then the color's two bytes (rule R101). -/
def pixelWords (c : Config) (x y : Nat) (color : U16) : List (Bool × Byte) :=
  windowWords (BitVec.ofNat 16 x) (BitVec.ofNat 16 y) (BitVec.ofNat 16 x) (BitVec.ofNat 16 y) ++
    [dataWord (hi8 color), dataWord (pixelLowByte c color)]

/-- `PIXEL` after its preconditions: the bounds check, then the drawing (rules R101, R125). -/
def drawPixel (c : Config) (x y : Nat) (color : U16) (s : State) : State × Status :=
  if inFrame x y then (busWrites c (pixelWords c x y color) s, .ok) else raiseOutOfBounds (.pixel x y) s

/-! ## LINE (rules R104 to R109) -/

/-- The naturals `a, a+1, ..., b` (rule R6): none when `a > b`. -/
def ascending (a b : Nat) : List Nat := List.range' a (b + 1 - a)

/-- Case 1 of rule R104: the touch list of a vertical run, ascending (rule R105). -/
def verticalRun (x y1 y2 : Nat) : List (Nat × Nat) :=
  (ascending (min y1 y2) (max y1 y2)).map (fun y => (x, y))

/-- Case 2 of rule R104: the touch list of a horizontal run, ascending (rule R105). -/
def horizontalRun (x1 x2 y : Nat) : List (Nat × Nat) :=
  (ascending (min x1 x2) (max x1 x2)).map (fun x => (x, y))

/-- The loop of rule R104, as the list of points it plots. `fuel` bounds its iterations; rule R109 says it ends at the
end point before the fuel of `generalLine` runs out. -/
def lineLoop (dx dy sx sy x2 y2 : Int) : Nat → Int → Int → Int → List (Int × Int)
  | 0, _, _, _ => []
  | fuel + 1, cx, cy, err =>
    (cx, cy) ::
      if cx = x2 ∧ cy = y2 then []
      else
        let e2 := err
        let stepX := e2 > -dx
        let stepY := e2 < dy
        let err := if stepX then err - dy else err
        let cx := if stepX then cx + sx else cx
        let err := if stepY then err + dx else err
        let cy := if stepY then cy + sy else cy
        lineLoop dx dy sx sy x2 y2 fuel cx cy err

/-- Case 3 of rule R104: the touch list of a general line, empty for a steep line under `Reference` (rule R108). -/
def generalLine (c : Config) (x1 y1 x2 y2 : Int) : List (Int × Int) :=
  let dx := |x2 - x1|
  let dy := |y2 - y1|
  if dx > dy ∨ c.lineSteep = .corrected then
    let err := (if dx > dy then dx else -dy).tdiv 2
    lineLoop dx dy (sign (x2 - x1)) (sign (y2 - y1)) x2 y2 (dx + dy + 1).toNat x1 y1 err
  else []

/-- The touch list of a line whose end points are in frame (rules R100, R104). -/
def lineTouches (c : Config) (x1 y1 x2 y2 : Nat) : List (Nat × Nat) :=
  if x1 = x2 then verticalRun x1 y1 y2
  else if y1 = y2 then horizontalRun x1 x2 y1
  else (generalLine c x1 y1 x2 y2).map (fun p => (p.1.toNat, p.2.toNat))

/-- Pixels of one colour drawn in order, each by `PIXEL` (rule R104, decision D14). -/
def drawPixels (c : Config) (color : U16) (points : List (Nat × Nat)) (s : State) : State × Status :=
  inOrder (points.map (fun p => drawPixel c p.1 p.2 color)) s

/-- `LINE` after its preconditions, and `LINE'` of rule R110: the bounds check of all four coordinates, then the
drawing. -/
def drawLine (c : Config) (x1 y1 x2 y2 : Nat) (color : U16) (s : State) : State × Status :=
  if inFrame x1 y1 && inFrame x2 y2 then drawPixels c color (lineTouches c x1 y1 x2 y2) s
  else raiseOutOfBounds (.line x1 y1 x2 y2) s

/-! ## RECT (rules R110 to R113) -/

/-- The end points of the `LINE'`s of a rectangle, in order: `(x1, y1, x2, y2)`, rows ascending for a fill; top,
right, bottom, left for an outline (rules R110 to R112). -/
def rectLines (x y size : Nat) (filled : Bool) : List (Nat × Nat × Nat × Nat) :=
  let endX := x + size
  let endY := y + size
  if filled then (ascending y endY).map (fun row => (x, row, endX, row))
  else [(x, y, endX, y), (endX, y, endX, endY), (x, endY, endX, endY), (x, y, x, endY)]

/-- `RECT` after its preconditions (rule R110). -/
def drawRect (c : Config) (x y size : Nat) (color : U16) (filled : Bool) (s : State) : State × Status :=
  inOrder ((rectLines x y size filled).map (fun l => drawLine c l.1 l.2.1 l.2.2.1 l.2.2.2 color)) s

/-! ## The operations -/

/-- The precondition of the draw operations (rule R92), then a drawing. -/
def whenReady (s : State) (draw : State → State × Status) : Outcome :=
  whenConfigured s (whenLifecycle .awakeReady s (finish (draw s)))

/-- `PIXEL` under any configuration (rule R101). -/
def pixel (c : Config) (x y color : U16) (s : State) : Outcome :=
  whenReady s (drawPixel c x.toNat y.toNat color)

/-- `LINE` under any configuration (rule R104). -/
def line (c : Config) (x1 y1 x2 y2 color : U16) (s : State) : Outcome :=
  whenReady s (drawLine c x1.toNat y1.toNat x2.toNat y2.toNat color)

/-- `RECT` under any configuration (rule R110). -/
def rect (c : Config) (x y size color : U16) (filled : Bool) (s : State) : Outcome :=
  whenReady s (drawRect c x.toNat y.toNat size.toNat color filled)

/-- `PIXEL(x, y, color)` (rule R101). -/
def execPixel (x y color : U16) (s : State) : Outcome := pixel hardware x y color s

/-- `LINE(x1, y1, x2, y2, color)` (rule R104). -/
def execLine (x1 y1 x2 y2 color : U16) (s : State) : Outcome := line hardware x1 y1 x2 y2 color s

/-- `RECT(x, y, size, color, filled)` (rule R110). -/
def execRect (x y size color : U16) (filled : Bool) (s : State) : Outcome := rect hardware x y size color filled s

end Sys2Proof.Machine
end

