-- ==== Sys2Proof/Machine/Wire.lean ====
section
/-! DEFINITION. The wire words of the opcode table, each as the one bus write that presents it to the receiver (rules R30,
R50, R54; DESIGN CHOICE, log 3, safe), and the reserved request (rule R61). What the receiver does with the word is in
Machine/Receiver.lean. -/

namespace Sys2Proof.Machine

/-- A frame whose `OP` names no operation is refused (rules R61, R124). -/
def execReservedOp (_op : BitVec 4) (_s : State) : Outcome := .refused .reservedOp

/-- Wire word `001` (rules R50, R54). -/
def execScript01 (s : State) : Outcome := transfer hardware false 0x01 s

/-- Wire word `0CF` (rules R50, R54). -/
def execScriptCF (s : State) : Outcome := transfer hardware false 0xCF s

/-- Wire word `0ED` (rules R50, R54). -/
def execScriptED (s : State) : Outcome := transfer hardware false 0xED s

/-- Wire word `0E8` (rules R50, R54). -/
def execScriptE8 (s : State) : Outcome := transfer hardware false 0xE8 s

/-- Wire word `0CB` (rules R50, R54). -/
def execScriptCB (s : State) : Outcome := transfer hardware false 0xCB s

/-- Wire word `0F7` (rules R50, R54). -/
def execScriptF7 (s : State) : Outcome := transfer hardware false 0xF7 s

/-- Wire word `0EA` (rules R50, R54). -/
def execScriptEA (s : State) : Outcome := transfer hardware false 0xEA s

/-- Wire word `0C0` (rules R50, R54). -/
def execScriptC0 (s : State) : Outcome := transfer hardware false 0xC0 s

/-- Wire word `0C1` (rules R50, R54). -/
def execScriptC1 (s : State) : Outcome := transfer hardware false 0xC1 s

/-- Wire word `0C5` (rules R50, R54). -/
def execScriptC5 (s : State) : Outcome := transfer hardware false 0xC5 s

/-- Wire word `0C7` (rules R50, R54). -/
def execScriptC7 (s : State) : Outcome := transfer hardware false 0xC7 s

/-- Wire word `036` (rules R50, R54). -/
def execScript36 (s : State) : Outcome := transfer hardware false 0x36 s

/-- Wire word `03A` (rules R50, R54). -/
def execScript3A (s : State) : Outcome := transfer hardware false 0x3A s

/-- Wire word `0B1` (rules R50, R54). -/
def execScriptB1 (s : State) : Outcome := transfer hardware false 0xB1 s

/-- Wire word `0B6` (rules R50, R54). -/
def execScriptB6 (s : State) : Outcome := transfer hardware false 0xB6 s

/-- Wire word `0F2` (rules R50, R54). -/
def execScriptF2 (s : State) : Outcome := transfer hardware false 0xF2 s

/-- Wire word `026` (rules R50, R54). -/
def execScript26 (s : State) : Outcome := transfer hardware false 0x26 s

/-- Wire word `0E0` (rules R50, R54). -/
def execScriptE0 (s : State) : Outcome := transfer hardware false 0xE0 s

/-- Wire word `0E1` (rules R50, R54). -/
def execScriptE1 (s : State) : Outcome := transfer hardware false 0xE1 s

/-- Wire word `011` (rules R50, R54). -/
def execScript11 (s : State) : Outcome := transfer hardware false 0x11 s

/-- Wire word `029` (rules R50, R54). -/
def execScript29 (s : State) : Outcome := transfer hardware false 0x29 s

/-- Wire word `02A` (rules R50, R39). -/
def execWinCol2A (s : State) : Outcome := transfer hardware false 0x2A s

/-- Wire word `02B` (rules R50, R39). -/
def execWinRow2B (s : State) : Outcome := transfer hardware false 0x2B s

/-- Wire word `02C` (rules R50, R40). -/
def execMemWrite2C (s : State) : Outcome := transfer hardware false 0x2C s

/-- A wire word with `rs = 1` (rule R50). -/
def execDataWord (b : Byte) (s : State) : Outcome := transfer hardware true b s

/-- A wire word with `rs = 0` and any opcode (rules R50, R62). -/
def execCmdWord (b : Byte) (s : State) : Outcome := transfer hardware false b s

end Sys2Proof.Machine
end

