-- ==== Sys2Proof/Machine/Dispatch.lean ====
section
/-! DEFINITION. One arm per instruction. -/

namespace Sys2Proof.Machine

def exec (i : Instr) (s : State) : Host.Outcome State Fault Refusal :=
  match i with
  | .configure => Sys2Proof.Machine.execConfigure s
  | .xfer byte isData => Sys2Proof.Machine.execXfer byte isData s
  | .cmd opcode => Sys2Proof.Machine.execCmd opcode s
  | .data byte => Sys2Proof.Machine.execData byte s
  | .dataBytes bytes => Sys2Proof.Machine.execDataBytes bytes s
  | .reset => Sys2Proof.Machine.execReset s
  | .init => Sys2Proof.Machine.execInit s
  | .setWin x1 y1 x2 y2 => Sys2Proof.Machine.execSetWin x1 y1 x2 y2 s
  | .pixel x y color => Sys2Proof.Machine.execPixel x y color s
  | .line x1 y1 x2 y2 color => Sys2Proof.Machine.execLine x1 y1 x2 y2 color s
  | .rect x y size color filled => Sys2Proof.Machine.execRect x y size color filled s
  | .reservedOp op => Sys2Proof.Machine.execReservedOp op s
  | .script01 => Sys2Proof.Machine.execScript01 s
  | .scriptCF => Sys2Proof.Machine.execScriptCF s
  | .scriptED => Sys2Proof.Machine.execScriptED s
  | .scriptE8 => Sys2Proof.Machine.execScriptE8 s
  | .scriptCB => Sys2Proof.Machine.execScriptCB s
  | .scriptF7 => Sys2Proof.Machine.execScriptF7 s
  | .scriptEA => Sys2Proof.Machine.execScriptEA s
  | .scriptC0 => Sys2Proof.Machine.execScriptC0 s
  | .scriptC1 => Sys2Proof.Machine.execScriptC1 s
  | .scriptC5 => Sys2Proof.Machine.execScriptC5 s
  | .scriptC7 => Sys2Proof.Machine.execScriptC7 s
  | .script36 => Sys2Proof.Machine.execScript36 s
  | .script3A => Sys2Proof.Machine.execScript3A s
  | .scriptB1 => Sys2Proof.Machine.execScriptB1 s
  | .scriptB6 => Sys2Proof.Machine.execScriptB6 s
  | .scriptF2 => Sys2Proof.Machine.execScriptF2 s
  | .script26 => Sys2Proof.Machine.execScript26 s
  | .scriptE0 => Sys2Proof.Machine.execScriptE0 s
  | .scriptE1 => Sys2Proof.Machine.execScriptE1 s
  | .script11 => Sys2Proof.Machine.execScript11 s
  | .script29 => Sys2Proof.Machine.execScript29 s
  | .winCol2A => Sys2Proof.Machine.execWinCol2A s
  | .winRow2B => Sys2Proof.Machine.execWinRow2B s
  | .memWrite2C => Sys2Proof.Machine.execMemWrite2C s
  | .dataWord b => Sys2Proof.Machine.execDataWord b s
  | .cmdWord b => Sys2Proof.Machine.execCmdWord b s

end Sys2Proof.Machine
end

