-- ==== Sys2Proof/Machine/Step.lean ====
section
/-! DEFINITION. One step: the host's next request is taken, decoded and performed to completion (rules R7, R13, R57). -/

namespace Sys2Proof.Machine

/-- One operation. With no request pending the block waits (rule R13; DESIGN CHOICE, log 2, safe). Two requests at once
are refused (rule R124, `Concurrent`). -/
def step (s : State) : Host.Outcome State Fault Refusal :=
  match s.pending with
  | [] => .next s
  | r :: rest =>
    match decodeRequest r with
    | .ok i => exec i { s with pending := rest }
    | .error .concurrent => .refused .concurrent

/-- `s` with the request that these bits stand for as the host's next one (log 1). -/
def State.withFetchWord (s : State) (nbits w : Nat) : State :=
  match requestOfTableWord nbits w with
  | some r => { s with pending := r :: s.pending }
  | none => s

end Sys2Proof.Machine
end

