-- ==== Sys2Proof/Machine/Waveform.lean ====
section
/-! DEFINITION. What an observer reads off the trace (rules R22 to R25, R31): the waveform, transitions, wire words, delays,
and the single-pin writes behind an event. No operation reads any of it. -/

namespace Sys2Proof.Machine

/-- The seven events of one bus write of the word `w` (rule R71; `T(w)` of 95_test_vectors.md). -/
def wordEvents (c : Config) (w : Bool × Byte) : List Event :=
  [.drive .rs w.1, .drive .cs false, .data w.2, .drive .wr false, .delay c.tStrobeUs, .drive .wr true, .drive .cs true]

/-- The latches after one event (rule R24). -/
def Event.apply (ls : Latches) : Event → Latches
  | .claim => Latches.claimed
  | .drive s l => ls.set s (Level.ofBit l)
  | .data b => { ls with d := .byte b }
  | .delay _ => ls
  | .report _ => ls

/-- The latches after a list of events (rule R24). -/
def replay (ls : Latches) (events : List Event) : Latches := events.foldl Event.apply ls

/-- The waveform: the thirteen levels before the event at position `n`, replayed from the reset state (rule R24). -/
def waveform (trace : List Event) (n : Nat) : Latches := replay Latches.powerUp (trace.take n)

/-- The transitions among events that start from latches `ls`: the `Drive`s that change a level (rule R24). -/
def transitions (ls : Latches) : List Event → List (Signal × Bool)
  | [] => []
  | e :: rest =>
    let later := transitions (e.apply ls) rest
    match e with
    | .drive s l => if ls.get s ≠ Level.ofBit l then (s, l) :: later else later
    | _ => later

/-- The wire word on the pins: `{RS, D}` while `CS = 0` (rules R30, R50). -/
def wordOnPins (ls : Latches) : Option (Bool × Byte) :=
  if ls.cs = .low then
    match ls.rs, ls.d with
    | .low, .byte b => some (false, b)
    | .high, .byte b => some (true, b)
    | _, _ => none
  else none

/-- The word sequence of events that start from latches `ls`: one word per strobe of `WR` (rules R31, R38). -/
def wordsFrom (ls : Latches) : List Event → List (Bool × Byte)
  | [] => []
  | e :: rest =>
    let later := wordsFrom (e.apply ls) rest
    match e with
    | .drive .wr false => (wordOnPins ls).toList ++ later
    | _ => later

/-- The word sequence of a trace (rule R31). -/
def words (trace : List Event) : List (Bool × Byte) := wordsFrom Latches.powerUp trace

/-- The delays asked of the delay provider, in order (rules R25, R130). -/
def delays (events : List Event) : List Nat :=
  events.filterMap (fun e => match e with
    | .delay us => some us
    | _ => none)

/-- The least time events take, from the delays alone (rule R150). -/
def minDuration (events : List Event) : Nat := (delays events).sum

/-- The reports among events (rule R120). -/
def reportsOf (events : List Event) : List ReportRecord :=
  events.filterMap (fun e => match e with
    | .report r => some r
    | _ => none)

/-- The number of bus transactions among events (rules R30, R31). -/
def strobeCount (events : List Event) : Nat := events.countP (fun e => e == .drive .wr false)

/-- The role of a control signal. -/
def Signal.role : Signal → PinRole
  | .rd => .rd
  | .wr => .wr
  | .rs => .rs
  | .cs => .cs
  | .rst => .rst

/-- The single-pin writes behind an event, as platform pin identities and levels: bit `i` of `D` to data pin `i`, in
ascending `i` (rules R23, R35). -/
def pinWrites (c : Config) : Event → List (Nat × Bool)
  | .drive s l => [(c.pinOf s.role, l)]
  | .data b => (List.finRange 8).map (fun i => (c.pinOf (.data i), b.getLsbD i))
  | .claim => []
  | .delay _ => []
  | .report _ => []

end Sys2Proof.Machine
end

