-- ==== Sys2Proof/Safety.lean ====
section
/-! DEFINITION. What counts as a safe state and a safe trace, in the terms the statements use. -/

namespace Sys2Proof.Machine

/-- The idle levels of the pins when no operation runs (rule R72), and `lc` outside `RESET` (rule R93); before
`CONFIGURE`, the power-up state (rule R26). -/
def IdleInv (s : State) : Prop :=
  if s.cfg then
    s.latches.rd = .high ∧ s.latches.wr = .high ∧ s.latches.cs = .high ∧ s.latches.rst = .high ∧
    s.latches.rs ≠ .unclaimed ∧ s.latches.d ≠ .unclaimed ∧ s.lc ≠ .resetting
  else
    s.latches = Latches.powerUp ∧ s.lc = .uninitialized ∧ s.trace = [] ∧ s.report = [] ∧ s.returns = []

/-- The latches are what the trace says they are (rule R24). -/
def WaveformInv (s : State) : Prop := replay Latches.powerUp s.trace = s.latches

/-- The reporting channel holds exactly the reports of the trace (rules R18, R120). -/
def ReportInv (s : State) : Prop := reportsOf s.trace = s.report

/-- One event respects the order of a transfer (rules R72, R145), when the latches are `ls` before it: `WR` falls only
while `CS = 0` and a word is on the pins; `CS`, `RS` and `D` are left alone while `WR = 0`. -/
def eventOrdered (ls : Latches) : Event → Bool
  | .drive .wr false => (wordOnPins ls).isSome
  | .drive .rs _ => ls.wr != .low
  | .drive .cs _ => ls.wr != .low
  | .data _ => ls.wr != .low
  | _ => true

/-- Every event of a list respects the order of a transfer, from latches `ls` on (rules R72, R145). -/
def transferOrdered (ls : Latches) : List Event → Bool
  | [] => true
  | e :: rest => eventOrdered ls e && transferOrdered (e.apply ls) rest

/-- Every strobe is a write of `WR = 0`, a delay of at least `t` microseconds and a write of `WR = 1`, with nothing
between them (rules R71, R143). -/
def strobesHeld (t : Nat) : List Event → Bool
  | [] => true
  | .drive .wr false :: .delay us :: .drive .wr true :: rest => t ≤ us && strobesHeld t rest
  | .drive .wr false :: _ => false
  | _ :: rest => strobesHeld t rest

/-- The whole trace respects the order of a transfer and the strobe width (rules R72, R143, R145). -/
def TraceOrdered (s : State) : Prop :=
  transferOrdered Latches.powerUp s.trace = true ∧ strobesHeld hardware.tStrobeUs s.trace = true

/-- `RS` and `D` hold the word of the most recent bus write, or their idle values if there has been none (rule R72). -/
def LastWordInv (s : State) : Prop :=
  s.cfg = true →
    match (words s.trace).getLast? with
    | some (rs, b) => s.latches.rs = Level.ofBit rs ∧ s.latches.d = .byte b
    | none => s.latches.rs = Level.ofBit hardware.rsIdle ∧ s.latches.d = .byte 0x00

/-- The receiver's position is one its window allows: nothing is known of its memory while it is unspecified or not yet
brought up since a reset; fewer than four payload bytes are held back; a stream runs in a
window inside the frame and not past its last cell (rules R39, R40, R41). -/
def phaseOk (r : Receiver) : Prop :=
  match r.phase with
  | .unspecified => r.gram = []
  | .sinceReset _ => r.gram = []
  | .idle => True
  | .colSet got => got.length < 4
  | .rowSet got => got.length < 4
  | .stream n first =>
    columnsValid r.window = true ∧ rowsValid r.window = true ∧ n ≤ windowCells r.window ∧
    (first ≠ none → n < windowCells r.window)

/-- The frame memory keeps its canonical form and the receiver's position is allowed. -/
def ReceiverInv (s : State) : Prop := s.receiver.gram.wf ∧ phaseOk s.receiver

/-- The invariant of the block (rules R18, R24, R26, R72, R93, R143, R145). -/
def BlockInv (s : State) : Prop :=
  IdleInv s ∧ WaveformInv s ∧ ReportInv s ∧ TraceOrdered s ∧ LastWordInv s

/-- The receiver awaits a command word, with no payload or pixel half sent (rules R40, R41). -/
def awaitsCommand (r : Receiver) : Bool :=
  match r.phase with
  | .idle => true
  | .stream _ none => true
  | _ => false

end Sys2Proof.Machine
end

