-- ==== Sys2Proof/Certificates/Slice0/Obligations.lean ====
section
/-! DEFINITION. The statements for the provers. Each `Obligations.<Name>` formalises what its docstring cites. The helpers under
`Sys2Proof.Spec` write the spec's tables and lists out again, apart from the model's own, so that a statement does not
repeat the definition it is about. `returns` is where the model records the status an invocation returns (log 5). -/

namespace Sys2Proof.Spec

open Sys2Proof.Machine

/-! ## The spec's notation -/

/-- `hi8(v)` of a value below 65536 (rule R6). -/
def hi (v : Nat) : Byte := BitVec.ofNat 8 (v / 256)

/-- `lo8(v)` of a value below 65536 (rule R6). -/
def lo (v : Nat) : Byte := BitVec.ofNat 8 (v % 256)

/-- `T(w)` with strobe width `us` (95_test_vectors.md; rule R71). -/
def transferEvents (us : Nat) (w : Bool × Byte) : List Event :=
  [.drive .rs w.1, .drive .cs false, .data w.2, .drive .wr false, .delay us, .drive .wr true, .drive .cs true]

/-- The wire words written as three hex digits in the spec: bit 8 is `rs` (rule R50). -/
def wordOf (w : WireWord) : Bool × Byte := (w.toNat / 256 = 1, BitVec.ofNat 8 (w.toNat % 256))

/-- `W(x1,y1,x2,y2)` (95_test_vectors.md; rule R91). -/
def windowWords (x1 y1 x2 y2 : Nat) : List (Bool × Byte) :=
  [(false, 0x2A), (true, hi x1), (true, lo x1), (true, hi x2), (true, lo x2),
   (false, 0x2B), (true, hi y1), (true, lo y1), (true, hi y2), (true, lo y2),
   (false, 0x2C)]

/-- `PX(x,y,c)` under `Reference`: the window-set of one cell, the high byte, `0xFF` (rule R101). -/
def pixelWords (color : Nat) (p : Nat × Nat) : List (Bool × Byte) :=
  windowWords p.1 p.2 p.1 p.2 ++ [(true, hi color), (true, 0xFF)]

/-- `PX(x,y,c)` under `Corrected` (rule R101). -/
def pixelWordsCorrected (color : Nat) (p : Nat × Nat) : List (Bool × Byte) :=
  windowWords p.1 p.2 p.1 p.2 ++ [(true, hi color), (true, lo color)]

/-- `(x, y)` is in frame (rule R100). -/
abbrev InFrame (x y : Nat) : Prop := x < 240 ∧ y < 320

/-- The touch list of a vertical run, ascending (rule R105). -/
def column (x y1 y2 : Nat) : List (Nat × Nat) :=
  (List.range (max y1 y2 - min y1 y2 + 1)).map (fun k => (x, min y1 y2 + k))

/-- The touch list of a horizontal run, ascending (rule R105). -/
def row (x1 x2 y : Nat) : List (Nat × Nat) :=
  (List.range (max x1 x2 - min x1 x2 + 1)).map (fun k => (min x1 x2 + k, y))

/-! ## Effects -/

/-- The latches after the words `ws`: those of the last word (rules R71, R72). -/
def latchesAfter (ls : Latches) (ws : List (Bool × Byte)) : Latches :=
  match ws.getLast? with
  | none => ls
  | some w =>
    { ls with rs := if w.1 then .high else .low, d := .byte w.2, cs := .high, wr := .high }

/-- From `s` to `t` an operation sent the words `ws` with strobe width `us`, wrote nothing else of the block but
returned `Ok`. The receiver is left to other statements. -/
def Sent (us : Nat) (ws : List (Bool × Byte)) (s t : State) : Prop :=
  t.trace = s.trace ++ ws.flatMap (transferEvents us) ∧
  t.latches = latchesAfter s.latches ws ∧
  t.cfg = s.cfg ∧ t.lc = s.lc ∧ t.report = s.report ∧ t.pending = s.pending ∧
  t.returns = s.returns ++ [.ok]

/-- The state after an invocation raised OutOfBounds with `info` and did nothing else (rule R120). -/
def reported (info : ReportInfo) (s : State) : State :=
  { s with
    report := s.report ++ [.outOfBounds info]
    trace := s.trace ++ [.report (.outOfBounds info)]
    returns := s.returns ++ [.outOfBounds] }

/-- The block is configured and awake: the precondition of drawing (rule R92). -/
abbrev Ready (s : State) : Prop := s.cfg = true ∧ s.lc = .awakeReady

/-! ## The general line (rules R104, R107) -/

/-- The loop of rule R104 (decision D16) as a relation: from the point `(cx, cy)` with error `err` it plots the list of points. -/
inductive Plots (dx dy sx sy x2 y2 : Int) : Int → Int → Int → List (Int × Int) → Prop where
  | last (err : Int) : Plots dx dy sx sy x2 y2 x2 y2 err [(x2, y2)]
  | more (cx cy err : Int) (rest : List (Int × Int)) (hmore : ¬(cx = x2 ∧ cy = y2))
      (hrest : Plots dx dy sx sy x2 y2
        (if err > -dx then cx + sx else cx)
        (if err < dy then cy + sy else cy)
        ((if err > -dx then err - dy else err) + (if err < dy then dx else 0))
        rest) :
      Plots dx dy sx sy x2 y2 cx cy err ((cx, cy) :: rest)

/-- `pts` are the points of the general line from `(x1, y1)` to `(x2, y2)` (rules R104, R107). Which points
these are is decision D16: the loop is from general knowledge, and U16 lets a claim rest on it only by naming it. -/
def GeneralLine (x1 y1 x2 y2 : Nat) (pts : List (Int × Int)) : Prop :=
  let dx : Int := |(x2 : Int) - x1|
  let dy : Int := |(y2 : Int) - y1|
  Plots dx dy ((x2 : Int) - x1).sign ((y2 : Int) - y1).sign x2 y2 x1 y1 ((if dx > dy then dx else -dy).tdiv 2) pts

/-- The points as frame coordinates. -/
def cells (pts : List (Int × Int)) : List (Nat × Nat) := pts.map (fun p => (p.1.toNat, p.2.toNat))

/-- `touched` is the touch list of a `LINE` between in-frame end points, under `LINE_STEEP = Reference` (rule R104;
the points of a general line are decision D16's). -/
def Touches (x1 y1 x2 y2 : Nat) (touched : List (Nat × Nat)) : Prop :=
  if x1 = x2 then touched = column x1 y1 y2
  else if y1 = y2 then touched = row x1 x2 y1
  else if |(x2 : Int) - x1| > |(y2 : Int) - y1| then ∃ pts, GeneralLine x1 y1 x2 y2 pts ∧ touched = cells pts
  else touched = []

/-- How many pixels a `LINE` touches under `LINE_STEEP = Reference` (rules R104, R105, R109): none out of frame. -/
def touchCount (x1 y1 x2 y2 : Nat) : Nat :=
  if ¬(InFrame x1 y1 ∧ InFrame x2 y2) then 0
  else if x1 = x2 then max y1 y2 - min y1 y2 + 1
  else if y1 = y2 then max x1 x2 - min x1 x2 + 1
  else if |(x2 : Int) - x1| > |(y2 : Int) - y1| then max x1 x2 - min x1 x2 + 1
  else 0

/-- What a `LINE` with these operands comes to in a ready state: rule R104, with `steep` for `LINE_STEEP = Corrected` (the
points of a general line are decision D16's). -/
def LineOutcome (steep : Bool) (x1 y1 x2 y2 color : Nat) (s : State) (o : Outcome) : Prop :=
  if ¬(InFrame x1 y1 ∧ InFrame x2 y2) then o = .next (reported (.line x1 y1 x2 y2) s)
  else if x1 = x2 then
    ∃ t, o = .next t ∧ Sent 1 ((column x1 y1 y2).flatMap (pixelWords color)) s t
  else if y1 = y2 then
    ∃ t, o = .next t ∧ Sent 1 ((row x1 x2 y1).flatMap (pixelWords color)) s t
  else if |(x2 : Int) - x1| > |(y2 : Int) - y1| ∨ steep = true then
    ∃ pts t, GeneralLine x1 y1 x2 y2 pts ∧ o = .next t ∧ Sent 1 ((cells pts).flatMap (pixelWords color)) s t
  else o = .next { s with returns := s.returns ++ [.ok] }

/-! ## Rectangles (rules R110 to R112) -/

/-- The `LINE'`s of a rectangle, `(x1, y1, x2, y2)` each, in the order drawn. -/
def rectLines (x y size : Nat) (filled : Bool) : List (Nat × Nat × Nat × Nat) :=
  if filled then (List.range (size + 1)).map (fun k => (x, y + k, x + size, y + k))
  else [(x, y, x + size, y), (x + size, y, x + size, y + size), (x, y + size, x + size, y + size), (x, y, x, y + size)]

/-- Both end points of a `LINE'` are in frame. -/
def lineInFrame (l : Nat × Nat × Nat × Nat) : Bool :=
  l.1 < 240 && l.2.1 < 320 && l.2.2.1 < 240 && l.2.2.2 < 320

/-- The words of a `LINE'` of a rectangle: its run when in frame, none otherwise (rules R104, R110). -/
def rectLineWords (color : Nat) (l : Nat × Nat × Nat × Nat) : List (Bool × Byte) :=
  if lineInFrame l then
    (if l.1 = l.2.2.1 then column l.1 l.2.1 l.2.2.2 else row l.1 l.2.2.1 l.2.1).flatMap (pixelWords color)
  else []

/-- The cells of a rectangle that are drawn: those of its `LINE'`s that are in frame. -/
def rectCells (x y size : Nat) (filled : Bool) : List (Nat × Nat) :=
  ((rectLines x y size filled).filter lineInFrame).flatMap (fun l =>
    if l.1 = l.2.2.1 then column l.1 l.2.1 l.2.2.2 else row l.1 l.2.2.1 l.2.1)

/-- The report of a `LINE'` of a rectangle, when out of frame. -/
def rectLineReports (l : Nat × Nat × Nat × Nat) : List ReportRecord :=
  if lineInFrame l then [] else [.outOfBounds (.line l.1 l.2.1 l.2.2.1 l.2.2.2)]

/-- The events of a `LINE'` of a rectangle. -/
def rectLineEvents (color : Nat) (l : Nat × Nat × Nat × Nat) : List Event :=
  (rectLineWords color l).flatMap (transferEvents 1) ++ (rectLineReports l).map .report

/-! ## The initialization script (rules R88, R89) -/

/-- Rule R89: the wire words in reading order, with the wait after each row. -/
def initRows : List (List WireWord × Nat) :=
  [([0x001], 5000),
   ([0x0CF, 0x100, 0x181, 0x130], 0),
   ([0x0ED, 0x164, 0x103, 0x112, 0x181], 0),
   ([0x0E8, 0x185, 0x110, 0x178], 0),
   ([0x0CB, 0x139, 0x12C, 0x100, 0x134, 0x102], 0),
   ([0x0F7, 0x120], 0),
   ([0x0EA, 0x100, 0x100], 0),
   ([0x0C0, 0x121], 0),
   ([0x0C1, 0x111], 0),
   ([0x0C5, 0x13F, 0x13C], 0),
   ([0x0C7, 0x1B5], 0),
   ([0x036, 0x148], 0),
   ([0x03A, 0x155], 0),
   ([0x0B1, 0x100, 0x118], 0),
   ([0x0B6, 0x10A, 0x1A2], 0),
   ([0x0F2, 0x100], 0),
   ([0x026, 0x101], 0),
   ([0x0E0, 0x10F, 0x123, 0x11F, 0x10B, 0x10E, 0x108, 0x14B, 0x1A8, 0x13B, 0x10A, 0x114, 0x106, 0x110, 0x109, 0x100], 0),
   ([0x0E1, 0x100, 0x11C, 0x120, 0x104, 0x110, 0x108, 0x134, 0x147, 0x144, 0x105, 0x10B, 0x109, 0x12F, 0x136, 0x10F], 0),
   ([0x011], 120000),
   ([0x029], 100000)]

/-- The events of one row: its transfers, then the wait if there is one. -/
def initRowEvents (r : List WireWord × Nat) : List Event :=
  (r.1.map wordOf).flatMap (transferEvents 1) ++ if r.2 = 0 then [] else [.delay r.2]

/-! ## Requests and preconditions -/

/-- The eleven operations of rule R58: not the reserved row, and not the wire words. -/
def isOperation : Instr → Bool
  | .configure => true
  | .xfer _ _ => true
  | .cmd _ => true
  | .data _ => true
  | .dataBytes _ => true
  | .reset => true
  | .init => true
  | .setWin _ _ _ _ => true
  | .pixel _ _ _ => true
  | .line _ _ _ _ _ => true
  | .rect _ _ _ _ _ => true
  | _ => false

/-- The condition under which each operation is performed (rules R70 to R111, R124). -/
def precondition (s : State) : Instr → Prop
  | .configure => s.cfg = false
  | .init => s.cfg = true ∧ s.lc = .runningInitScript
  | .setWin x1 y1 x2 y2 =>
    Ready s ∧ x1.toNat ≤ x2.toNat ∧ x2.toNat < 240 ∧ y1.toNat ≤ y2.toNat ∧ y2.toNat < 320
  | .pixel _ _ _ => Ready s
  | .line _ _ _ _ _ => Ready s
  | .rect _ _ _ _ _ => Ready s
  | _ => s.cfg = true

/-- The wire words with rows of their own: `CMD` opcodes of rule R54, each with its instruction. -/
def commandWords : List (WireWord × Instr) :=
  [(0x001, .script01), (0x0CF, .scriptCF), (0x0ED, .scriptED), (0x0E8, .scriptE8), (0x0CB, .scriptCB),
   (0x0F7, .scriptF7), (0x0EA, .scriptEA), (0x0C0, .scriptC0), (0x0C1, .scriptC1), (0x0C5, .scriptC5),
   (0x0C7, .scriptC7), (0x036, .script36), (0x03A, .script3A), (0x0B1, .scriptB1), (0x0B6, .scriptB6),
   (0x0F2, .scriptF2), (0x026, .script26), (0x0E0, .scriptE0), (0x0E1, .scriptE1), (0x011, .script11),
   (0x029, .script29), (0x02A, .winCol2A), (0x02B, .winRow2B), (0x02C, .memWrite2C)]

/-- The bits of a frame that an operation uses (rule R60): `OP`, and the fields listed for it. -/
def usedBits (op : Nat) : Frame :=
  match op with
  | 1 => 0xF800000000000000000000FF
  | 4 => 0xF0FFFFFFFFFFFFFFFF000000
  | 5 => 0xF0FFFFFFFF00000000FFFF00
  | 6 => 0xF0FFFFFFFFFFFFFFFFFFFF00
  | 7 => 0xF8FFFFFFFFFFFF0000FFFF00
  | _ => 0xF00000000000000000000000

/-! ## Frame memory -/

/-- The byte address of the high byte of cell `(x, y)` (log 8). -/
def addr (x y : Nat) : Nat := 2 * (240 * y + x)

/-- `a` is one of the two byte addresses of cell `(x, y)`. -/
def inCell (x y a : Nat) : Prop := a = addr x y ∨ a = addr x y + 1

/-- The cell the receiver writes, or is about to write, with its next data word, if it is in a stream (rule R40): its
byte addresses. -/
def streamBytes (r : Receiver) : List Nat :=
  match r.phase with
  | .stream n _ => [streamAddr r.window n, streamAddr r.window n + 1]
  | _ => []

/-- The receiver accepted every word strobed from `s` to `t`: a free value (rule R41; log 10). -/
def Took (s t : State) : Prop :=
  ∀ n, s.receiver.strobes ≤ n → n < t.receiver.strobes → Config.wordAccepted n = true

/-- `known` holds in `t` if the receiver accepted every word strobed since `s`; else nothing is known of it (rule R41). -/
def IfTook (s t : State) (known : Prop) : Prop :=
  (Took s t → known) ∧
  (¬Took s t → t.receiver.phase = .unspecified ∧ ∀ a, t.receiver.gram.read a = none)

/-- Two states the block cannot tell apart: only the trace, the report channel and the returned statuses differ. -/
def SameBlock (s s' : State) : Prop :=
  s.latches = s'.latches ∧ s.cfg = s'.cfg ∧ s.lc = s'.lc ∧ s.pending = s'.pending ∧ s.receiver = s'.receiver

/-- Two outcomes of one instruction from such states: the same refusal, or next states that differ in the same way, each
list longer by the same entries. -/
def SameEffect (s s' : State) : Outcome → Outcome → Prop
  | .next t, .next t' =>
    SameBlock t t' ∧
    ∃ events reports statuses,
      t.trace = s.trace ++ events ∧ t'.trace = s'.trace ++ events ∧
      t.report = s.report ++ reports ∧ t'.report = s'.report ++ reports ∧
      t.returns = s.returns ++ statuses ∧ t'.returns = s'.returns ++ statuses
  | .refused r, .refused r' => r = r'
  | _, _ => False

end Sys2Proof.Spec

open Sys2Proof Sys2Proof.Machine Sys2Proof.Spec

/-! ## Reset (rules R26, R140) -/

/-- Rule R140: the power-up state, and that `CONFIGURE` alone is accepted in it. -/
def Obligations.PowerUpAcceptsOnlyConfigure : Prop :=
  State.reset.cfg = false ∧ State.reset.lc = .uninitialized ∧
  State.reset.latches = ⟨.unclaimed, .unclaimed, .unclaimed, .unclaimed, .unclaimed, .unclaimed⟩ ∧
  State.reset.trace = [] ∧ State.reset.report = [] ∧
  ∀ i : Instr, isOperation i = true → ((∃ t, exec i State.reset = .next t) ↔ i = .configure)

/-! ## Bus Driver -/

/-- Rule R70: `CONFIGURE`. -/
def Obligations.ConfigureClaimsPins : Prop :=
  ∀ s : State,
    (s.cfg = true → exec .configure s = .refused .alreadyConfigured) ∧
    (s.cfg = false → ∃ t, exec .configure s = .next t ∧
      t.latches = ⟨.high, .high, .high, .high, .high, .byte 0x00⟩ ∧
      t.trace = s.trace ++
        ([.claim, .drive .rd true, .drive .wr true, .drive .rs true, .drive .cs true, .drive .rst true,
          .data 0x00] : List Event) ∧
      t.cfg = true ∧ t.lc = s.lc ∧ t.report = s.report ∧ t.pending = s.pending ∧ t.returns = s.returns ++ [.ok])

/-- Rule R70 for every value of `RS_IDLE` and `RST_IDLE` (rule R5): the levels `CONFIGURE` leaves. -/
def Obligations.ConfigureIdleLevelsAreParameters : Prop :=
  ∀ (c : Config) (s : State), s.cfg = false → ∃ t, configure c s = .next t ∧
    t.latches.rs = (if c.rsIdle then .high else .low) ∧ t.latches.rst = (if c.rstIdle then .high else .low) ∧
    t.latches.rd = .high ∧ t.latches.wr = .high ∧ t.latches.cs = .high ∧ t.latches.d = .byte 0x00

/-- Rule R71: `XFER`. -/
def Obligations.XferSendsOneByte : Prop :=
  ∀ (s : State) (byte : Byte) (isData : Bool),
    (s.cfg = false → exec (.xfer byte isData) s = .refused .notConfigured) ∧
    (s.cfg = true → ∃ t, exec (.xfer byte isData) s = .next t ∧
      t.trace = s.trace ++
        ([.drive .rs isData, .drive .cs false, .data byte, .drive .wr false, .delay 1, .drive .wr true,
          .drive .cs true] : List Event) ∧
      t.latches = { s.latches with rs := if isData then .high else .low, d := .byte byte, wr := .high, cs := .high } ∧
      t.cfg = s.cfg ∧ t.lc = s.lc ∧ t.report = s.report ∧ t.pending = s.pending ∧ t.returns = s.returns ++ [.ok])

/-- Rules R71 and R143 for every strobe width (rule R5): a transfer under `T_STROBE_US = us`. -/
def Obligations.TransferHoldsStrobeForParameter : Prop :=
  ∀ (c : Config) (s : State) (byte : Byte) (isData : Bool), s.cfg = true →
    ∃ t, transfer c isData byte s = .next t ∧ Sent c.tStrobeUs [(isData, byte)] s t ∧
      strobesHeld c.tStrobeUs (transferEvents c.tStrobeUs (isData, byte)) = true

/-! ## Command Layer -/

/-- Rule R80: `CMD(opcode)` is `XFER(opcode, false)`. -/
def Obligations.CommandIsTransferWithRsLow : Prop :=
  ∀ (s : State) (opcode : Byte),
    exec (.cmd opcode) s = exec (.xfer opcode false) s ∧
    (s.cfg = true → ∃ t, exec (.cmd opcode) s = .next t ∧ Sent 1 [(false, opcode)] s t)

/-- Rule R81: `DATA(byte)` is `XFER(byte, true)`. -/
def Obligations.DataIsTransferWithRsHigh : Prop :=
  ∀ (s : State) (byte : Byte),
    exec (.data byte) s = exec (.xfer byte true) s ∧
    (s.cfg = true → ∃ t, exec (.data byte) s = .next t ∧ Sent 1 [(true, byte)] s t)

/-- Rule R82: `DATABYTES` is `DATA` of each byte in order; of no byte, nothing but the return. -/
def Obligations.DataBytesSendsEachInOrder : Prop :=
  ∀ (s : State) (bytes : List Byte),
    (s.cfg = false → exec (.dataBytes bytes) s = .refused .notConfigured) ∧
    (s.cfg = true → ∃ t, exec (.dataBytes bytes) s = .next t ∧ Sent 1 (bytes.map (fun b => (true, b))) s t)

/-! ## Controller Sequencer -/

/-- Rule R85: `RESET`. -/
def Obligations.ResetPulsesThePin : Prop :=
  ∀ s : State,
    (s.cfg = false → exec .reset s = .refused .notConfigured) ∧
    (s.cfg = true → ∃ t, exec .reset s = .next t ∧
      t.latches = { s.latches with rst := .high } ∧ t.lc = .runningInitScript ∧
      t.trace = s.trace ++
        ([.drive .rst true, .delay 5000, .drive .rst false, .delay 15000, .drive .rst true,
          .delay 15000] : List Event) ∧
      t.cfg = s.cfg ∧ t.report = s.report ∧ t.pending = s.pending ∧ t.returns = s.returns ++ [.ok])

/-- Rules R24, R85 (corner cases; the waveform is marked derived): the transitions of `RST` in a `RESET`, from either
level. -/
def Obligations.ResetTransitionsOfRst : Prop :=
  ∀ s t : State, exec .reset s = .next t →
    (s.latches.rst = .high → transitions s.latches (t.trace.drop s.trace.length) = [(.rst, false), (.rst, true)]) ∧
    (s.latches.rst = .low →
      transitions s.latches (t.trace.drop s.trace.length) = [(.rst, true), (.rst, false), (.rst, true)])

/-- Rules R87 and R88: `INIT`. -/
def Obligations.InitRunsTheScript : Prop :=
  ∀ s : State,
    (s.cfg = false → exec .init s = .refused .notConfigured) ∧
    (s.cfg = true → s.lc ≠ .runningInitScript → exec .init s = .refused .wrongLifecycle) ∧
    (s.cfg = true → s.lc = .runningInitScript → ∃ t, exec .init s = .next t ∧
      t.trace = s.trace ++ initRows.flatMap initRowEvents ∧
      t.latches = { s.latches with rs := .low, d := .byte 0x29, cs := .high, wr := .high } ∧
      t.lc = .awakeReady ∧ t.cfg = s.cfg ∧ t.report = s.report ∧ t.pending = s.pending ∧
      t.returns = s.returns ++ [.ok])

/-- Rules R87, R89 (counts marked derived): 82 words and 577 events, read off the trace by the observer. -/
def Obligations.InitWordSequence : Prop :=
  ∀ s t : State, exec .init s = .next t →
    (t.trace.drop s.trace.length).length = 577 ∧
    wordsFrom s.latches (t.trace.drop s.trace.length) = (initRows.flatMap (fun r => r.1)).map wordOf ∧
    (wordsFrom s.latches (t.trace.drop s.trace.length)).length = 82

/-- Rules R91 and R92: `SETWIN`. -/
def Obligations.SetWindowSendsElevenWords : Prop :=
  ∀ (s : State) (x1 y1 x2 y2 : U16),
    (s.cfg = false → exec (.setWin x1 y1 x2 y2) s = .refused .notConfigured) ∧
    (s.cfg = true → s.lc ≠ .awakeReady → exec (.setWin x1 y1 x2 y2) s = .refused .wrongLifecycle) ∧
    (Ready s → ¬(x1.toNat ≤ x2.toNat ∧ x2.toNat < 240 ∧ y1.toNat ≤ y2.toNat ∧ y2.toNat < 320) →
      exec (.setWin x1 y1 x2 y2) s = .refused .badWindow) ∧
    (Ready s → (x1.toNat ≤ x2.toNat ∧ x2.toNat < 240 ∧ y1.toNat ≤ y2.toNat ∧ y2.toNat < 320) →
      ∃ t, exec (.setWin x1 y1 x2 y2) s = .next t ∧
        Sent 1 (Spec.windowWords x1.toNat y1.toNat x2.toNat y2.toNat) s t)

/-! ## Rasterization Engine -/

/-- Rule R101: `PIXEL`, with the low byte of this hardware (`Reference`), and under `Corrected`. -/
def Obligations.PixelDrawsOneCell : Prop :=
  ∀ (s : State) (x y color : U16),
    (s.cfg = false → exec (.pixel x y color) s = .refused .notConfigured) ∧
    (s.cfg = true → s.lc ≠ .awakeReady → exec (.pixel x y color) s = .refused .wrongLifecycle) ∧
    (Ready s → ¬InFrame x.toNat y.toNat →
      exec (.pixel x y color) s = .next (reported (.pixel x.toNat y.toNat) s)) ∧
    (Ready s → InFrame x.toNat y.toNat →
      (∃ t, exec (.pixel x y color) s = .next t ∧ Sent 1 (Spec.pixelWords color.toNat (x.toNat, y.toNat)) s t) ∧
      (∃ t, Machine.pixel { hardware with pixelLowByte := .corrected } x y color s = .next t ∧
        Sent 1 (pixelWordsCorrected color.toNat (x.toNat, y.toNat)) s t))

/-- Rules R104, R105, R108: `LINE` of this hardware (`LINE_STEEP = Reference`) and under `Corrected`, in every case. The exact
cells of a slanted line are decision D16's: its loop is from general knowledge (rule R107, U16). -/
def Obligations.LineDrawsItsTouchList : Prop :=
  ∀ (s : State) (x1 y1 x2 y2 color : U16),
    (s.cfg = false → exec (.line x1 y1 x2 y2 color) s = .refused .notConfigured) ∧
    (s.cfg = true → s.lc ≠ .awakeReady → exec (.line x1 y1 x2 y2 color) s = .refused .wrongLifecycle) ∧
    (Ready s →
      LineOutcome false x1.toNat y1.toNat x2.toNat y2.toNat color.toNat s (exec (.line x1 y1 x2 y2 color) s)) ∧
    (Ready s →
      LineOutcome true x1.toNat y1.toNat x2.toNat y2.toNat color.toNat s
        (Machine.line { hardware with lineSteep := .corrected } x1 y1 x2 y2 color s))

/-- Rule R105: the runs have `|y2-y1|+1` and `|x2-x1|+1` pixels, and `LINE` draws them whichever end point is given
first. -/
def Obligations.StraightRunsEitherWay : Prop :=
  ∀ (s : State) (x1 y1 x2 y2 color : U16), Ready s → InFrame x1.toNat y1.toNat → InFrame x2.toNat y2.toNat →
    (x1 = x2 →
      (column x1.toNat y1.toNat y2.toNat).length = (max y1.toNat y2.toNat - min y1.toNat y2.toNat) + 1 ∧
      exec (.line x1 y1 x2 y2 color) s = exec (.line x2 y2 x1 y1 color) s ∧
      ∃ t, exec (.line x1 y1 x2 y2 color) s = .next t ∧
        Sent 1 ((column x1.toNat y1.toNat y2.toNat).flatMap (Spec.pixelWords color.toNat)) s t) ∧
    (x1 ≠ x2 → y1 = y2 →
      (row x1.toNat x2.toNat y1.toNat).length = (max x1.toNat x2.toNat - min x1.toNat x2.toNat) + 1 ∧
      exec (.line x1 y1 x2 y2 color) s = exec (.line x2 y2 x1 y1 color) s ∧
      ∃ t, exec (.line x1 y1 x2 y2 color) s = .next t ∧
        Sent 1 ((row x1.toNat x2.toNat y1.toNat).flatMap (Spec.pixelWords color.toNat)) s t)

/-- Rule R108: under `Reference` a steep general line does nothing and returns `Ok`; under `Corrected` the loop runs for
every general line and touches `max(dx,dy) + 1` pixels, which are decision D16's (the loop is from general knowledge, rule
R107, U16). -/
def Obligations.SteepLineGap : Prop :=
  ∀ (s : State) (x1 y1 x2 y2 color : U16), Ready s → InFrame x1.toNat y1.toNat → InFrame x2.toNat y2.toNat →
    x1 ≠ x2 → y1 ≠ y2 →
    (|(y2.toNat : Int) - y1.toNat| ≥ |(x2.toNat : Int) - x1.toNat| →
      exec (.line x1 y1 x2 y2 color) s = .next { s with returns := s.returns ++ [.ok] }) ∧
    ∃ pts t, GeneralLine x1.toNat y1.toNat x2.toNat y2.toNat pts ∧
      Machine.line { hardware with lineSteep := .corrected } x1 y1 x2 y2 color s = .next t ∧
      Sent 1 ((cells pts).flatMap (Spec.pixelWords color.toNat)) s t ∧
      (pts.length : Int) = max |(x2.toNat : Int) - x1.toNat| |(y2.toNat : Int) - y1.toNat| + 1

/-- Rule R109 (marked derived), under both values of `LINE_STEEP`: the touch list of a general line that is drawn is the one
list of points of the loop (decision D16; rule R107, U16), has `max(dx,dy) + 1` entries, runs from end point to end point
and stays inside the rectangle the end points span; a general line that is not drawn touches nothing. -/
def Obligations.GeneralLineStaysInItsBox : Prop :=
  ∀ (c : Config) (x1 y1 x2 y2 : Nat), x1 ≠ x2 → y1 ≠ y2 →
    if |(x2 : Int) - x1| > |(y2 : Int) - y1| ∨ c.lineSteep = .corrected then
      (∃ pts, GeneralLine x1 y1 x2 y2 pts ∧ (∀ pts', GeneralLine x1 y1 x2 y2 pts' → pts' = pts) ∧
        Machine.generalLine c x1 y1 x2 y2 = pts ∧ lineTouches c x1 y1 x2 y2 = cells pts) ∧
      ((lineTouches c x1 y1 x2 y2).length : Int) = max |(x2 : Int) - x1| |(y2 : Int) - y1| + 1 ∧
      (lineTouches c x1 y1 x2 y2).head? = some (x1, y1) ∧ (lineTouches c x1 y1 x2 y2).getLast? = some (x2, y2) ∧
      ∀ p ∈ lineTouches c x1 y1 x2 y2, min x1 x2 ≤ p.1 ∧ p.1 ≤ max x1 x2 ∧ min y1 y2 ≤ p.2 ∧ p.2 ≤ max y1 y2
    else lineTouches c x1 y1 x2 y2 = []

/-- Rule R109 (marked derived): when `dx > dy`, the touch list of a general line has one pixel per column, from `x1` to `x2`,
under both values of `LINE_STEEP` (decision D16; rule R107, U16). -/
def Obligations.ShallowLineOnePixelPerColumn : Prop :=
  ∀ (c : Config) (x1 y1 x2 y2 : Nat), y1 ≠ y2 → |(x2 : Int) - x1| > |(y2 : Int) - y1| →
    (lineTouches c x1 y1 x2 y2).map Prod.fst =
      (List.range (max x1 x2 - min x1 x2 + 1)).map (fun k => if x1 < x2 then x1 + k else x1 - k)

/-- Rules R110, R111, R112: `RECT`, for every size and place: each `LINE'` in order, drawn or reported on its own. -/
def Obligations.RectDrawsItsLines : Prop :=
  ∀ (s : State) (x y size color : U16) (filled : Bool),
    (s.cfg = false → exec (.rect x y size color filled) s = .refused .notConfigured) ∧
    (s.cfg = true → s.lc ≠ .awakeReady → exec (.rect x y size color filled) s = .refused .wrongLifecycle) ∧
    (Ready s → ∃ t, exec (.rect x y size color filled) s = .next t ∧
      let ls := Spec.rectLines x.toNat y.toNat size.toNat filled
      t.trace = s.trace ++ ls.flatMap (rectLineEvents color.toNat) ∧
      t.report = s.report ++ ls.flatMap rectLineReports ∧
      t.returns = s.returns ++ [if ls.all lineInFrame then .ok else .outOfBounds] ∧
      t.latches = Spec.latchesAfter s.latches (ls.flatMap (rectLineWords color.toNat)) ∧
      t.cfg = s.cfg ∧ t.lc = s.lc ∧ t.pending = s.pending)

/-- Rules R111, R112, R150 (counts marked derived): the transfers of a wholly in-frame rectangle: `13 (size+1)²` for a
fill, `52 (size+1)` for an outline. -/
def Obligations.RectInFrameCost : Prop :=
  ∀ (s t : State) (x y size color : U16) (filled : Bool),
    x.toNat + size.toNat < 240 → y.toNat + size.toNat < 320 → exec (.rect x y size color filled) s = .next t →
    t.report = s.report ∧
    strobeCount (t.trace.drop s.trace.length) =
      if filled then 13 * (size.toNat + 1) ^ 2 else 52 * (size.toNat + 1)

/-- Rule R113 (marked derived): a fill that reaches column 240 or beyond draws nothing and makes `size + 1` reports. -/
def Obligations.FillBeyondRightEdgeOnlyReports : Prop :=
  ∀ (s t : State) (x y size color : U16),
    x.toNat + size.toNat ≥ 240 → exec (.rect x y size color true) s = .next t →
    t.latches = s.latches ∧ t.receiver = s.receiver ∧
    t.trace = s.trace ++ (List.range (size.toNat + 1)).map (fun k =>
      .report (.outOfBounds (.line x.toNat (y.toNat + k) (x.toNat + size.toNat) (y.toNat + k)))) ∧
    t.report.length = s.report.length + size.toNat + 1 ∧ t.returns = s.returns ++ [.outOfBounds]

/-- Rule R120: OutOfBounds appends its record, ends the raising invocation, and leaves pins, `cfg`, `lc` and the
receiver as they were; `RECT` itself never raises it, each of its lines may. -/
def Obligations.OutOfBoundsOnlyReports : Prop :=
  ∀ (s : State) (x1 y1 x2 y2 color : U16), Ready s →
    ((x1.toNat ≥ 240 ∨ y1.toNat ≥ 320) →
      exec (.pixel x1 y1 color) s = .next (reported (.pixel x1.toNat y1.toNat) s)) ∧
    ((x1.toNat ≥ 240 ∨ x2.toNat ≥ 240 ∨ y1.toNat ≥ 320 ∨ y2.toNat ≥ 320) →
      exec (.line x1 y1 x2 y2 color) s = .next (reported (.line x1.toNat y1.toNat x2.toNat y2.toNat) s)) ∧
    ∀ (size : U16) (filled : Bool) (t : State), exec (.rect x1 y1 size color filled) s = .next t →
      t.report = s.report ++
        ((Spec.rectLines x1.toNat y1.toNat size.toNat filled).filter (fun l => !lineInFrame l)).map
          (fun l => .outOfBounds (.line l.1 l.2.1 l.2.2.1 l.2.2.2))

/-! ## Refusals, completion, whole-machine rules -/

/-- Rule R124: every reason for a refusal, and that a refused request gets no step. -/
def Obligations.ContractViolationsRefused : Prop :=
  (∀ (i : Instr) (s : State), isOperation i = true → i ≠ .configure → s.cfg = false →
    exec i s = .refused .notConfigured) ∧
  (∀ s : State, s.cfg = true → exec .configure s = .refused .alreadyConfigured) ∧
  (∀ s : State, s.cfg = true → s.lc ≠ .runningInitScript → exec .init s = .refused .wrongLifecycle) ∧
  (∀ (s : State) (x1 y1 x2 y2 color : U16) (filled : Bool), s.cfg = true → s.lc ≠ .awakeReady →
    exec (.setWin x1 y1 x2 y2) s = .refused .wrongLifecycle ∧
    exec (.pixel x1 y1 color) s = .refused .wrongLifecycle ∧
    exec (.line x1 y1 x2 y2 color) s = .refused .wrongLifecycle ∧
    exec (.rect x1 y1 x2 color filled) s = .refused .wrongLifecycle) ∧
  (∀ (s : State) (x1 y1 x2 y2 : U16), Ready s →
    (x1.toNat > x2.toNat ∨ x2.toNat ≥ 240 ∨ y1.toNat > y2.toNat ∨ y2.toNat ≥ 320) →
    exec (.setWin x1 y1 x2 y2) s = .refused .badWindow) ∧
  (∀ (s : State) (op : BitVec 4), exec (.reservedOp op) s = .refused .reservedOp) ∧
  (∀ (s : State) (f g : Frame) (rest : List Request), s.pending = .overlapping f g :: rest →
    step s = .refused .concurrent)

/-- Rules R93, R123: every operation answers a next state exactly when its precondition holds, for every operand. -/
def Obligations.TotalOnPreconditions : Prop :=
  ∀ (i : Instr) (s : State), isOperation i = true → ((∃ t, exec i s = .next t) ↔ precondition s i)

/-- Rules R30, R50, R54, R62: each wire row of the table is the one bus write of its word, which is `XFER` of that word.
That a wire word may be requested as such is the model's choice (log 3). -/
def Obligations.WireWordsAreBusWrites : Prop :=
  (∀ s : State,
    (∀ row ∈ commandWords, exec row.2 s = exec (.xfer (wordOf row.1).2 (wordOf row.1).1) s) ∧
    (∀ b : Byte, exec (.dataWord b) s = exec (.xfer b true) s ∧ exec (.cmdWord b) s = exec (.xfer b false) s)) ∧
  ∀ s : State, s.cfg = true →
    (∀ row ∈ commandWords, ∃ t, exec row.2 s = .next t ∧ Sent 1 [wordOf row.1] s t) ∧
    (∀ b : Byte, ∃ t, exec (.dataWord b) s = .next t ∧ Sent 1 [(true, b)] s t) ∧
    (∀ b : Byte, ∃ t, exec (.cmdWord b) s = .next t ∧ Sent 1 [(false, b)] s t)

/-- 10_state.md section 1, "written by": what each operation leaves unchanged, and that the lists only grow. -/
def Obligations.OnlyTheirWritersWrite : Prop :=
  ∀ (i : Instr) (s t : State), exec i s = .next t →
    (i ≠ .configure → t.latches.rd = s.latches.rd ∧ t.cfg = s.cfg) ∧
    (i ≠ .configure → i ≠ .reset → t.latches.rst = s.latches.rst) ∧
    (i ≠ .reset → i ≠ .init → t.lc = s.lc) ∧
    (i = .reset → t.latches.wr = s.latches.wr ∧ t.latches.rs = s.latches.rs ∧ t.latches.cs = s.latches.cs ∧
      t.latches.d = s.latches.d) ∧
    t.pending = s.pending ∧
    (∃ events, t.trace = s.trace ++ events) ∧ (∃ reports, t.report = s.report ++ reports) ∧
    (∃ st, t.returns = s.returns ++ [st]) ∧
    ((∀ x y c, i ≠ .pixel x y c) → (∀ x1 y1 x2 y2 c, i ≠ .line x1 y1 x2 y2 c) →
      (∀ x y z c f, i ≠ .rect x y z c f) → t.report = s.report ∧ t.returns = s.returns ++ [.ok])

/-- Rules R17, R93: the lifecycle only moves as the FSM's edges say: to a lower-numbered state by `RESET` alone. -/
def Obligations.LifecycleEdges : Prop :=
  ∀ s t : State, step s = .next t →
    t.lc = s.lc ∨
    ∃ r rest, s.pending = r :: rest ∧
      ((decodeRequest r = .ok .reset ∧ t.lc = .runningInitScript) ∨
       (decodeRequest r = .ok .init ∧ s.lc = .runningInitScript ∧ t.lc = .awakeReady))

/-- Rule R141: `CONFIGURE`, `RESET`, `INIT` in this order make any unconfigured block ready; the least time is marked
derived. -/
def Obligations.BringUpReachesReady : Prop :=
  ∀ s : State, s.cfg = false → ∃ s1 s2 s3,
    exec .configure s = .next s1 ∧ exec .reset s1 = .next s2 ∧ exec .init s2 = .next s3 ∧
    Ready s3 ∧ s3.latches = ⟨.high, .high, .low, .high, .high, .byte 0x29⟩ ∧ s3.report = s.report ∧
    (s3.trace.drop s.trace.length).length = 590 ∧ minDuration (s3.trace.drop s.trace.length) = 260082

/-- Rule R150 (marked derived): the least duration of each operation, from the delays alone. -/
def Obligations.MinimumDurations : Prop :=
  ∀ s t : State,
    (exec .configure s = .next t → minDuration (t.trace.drop s.trace.length) = 0) ∧
    (∀ b d, exec (.xfer b d) s = .next t → minDuration (t.trace.drop s.trace.length) = 1) ∧
    (∀ b, exec (.cmd b) s = .next t → minDuration (t.trace.drop s.trace.length) = 1) ∧
    (∀ b, exec (.data b) s = .next t → minDuration (t.trace.drop s.trace.length) = 1) ∧
    (∀ bs, exec (.dataBytes bs) s = .next t → minDuration (t.trace.drop s.trace.length) = bs.length) ∧
    (exec .reset s = .next t → minDuration (t.trace.drop s.trace.length) = 35000) ∧
    (exec .init s = .next t → minDuration (t.trace.drop s.trace.length) = 225082) ∧
    (∀ x1 y1 x2 y2, exec (.setWin x1 y1 x2 y2) s = .next t → minDuration (t.trace.drop s.trace.length) = 11) ∧
    (∀ x y c, exec (.pixel x y c) s = .next t →
      minDuration (t.trace.drop s.trace.length) = if x.toNat < 240 ∧ y.toNat < 320 then 13 else 0) ∧
    (∀ x1 y1 x2 y2 c, exec (.line x1 y1 x2 y2 c) s = .next t →
      minDuration (t.trace.drop s.trace.length) = 13 * touchCount x1.toNat y1.toNat x2.toNat y2.toNat) ∧
    (∀ x y size c filled, exec (.rect x y size c filled) s = .next t →
      minDuration (t.trace.drop s.trace.length) = 13 * (rectCells x.toNat y.toNat size.toNat filled).length ∧
      (x.toNat + size.toNat < 240 → y.toNat + size.toNat < 320 →
        minDuration (t.trace.drop s.trace.length) =
          if filled then 13 * (size.toNat + 1) ^ 2 else 52 * (size.toNat + 1)))

/-- Rule R18 ("No rule of the block reads `report` or a status"), R22 (the trace is ghost state): what an instruction
does is the same from states that differ only in the trace, the reports and the returned statuses. -/
def Obligations.GhostStateIsNeverRead : Prop :=
  ∀ (i : Instr) (s s' : State), SameBlock s s' → SameEffect s s' (exec i s) (exec i s')

/-- Rule R128: after a failing `PIXEL` or `LINE` the next operation runs as if it had not been requested. -/
def Obligations.NextRunsAsIfNotRequested : Prop :=
  ∀ (i : Instr) (s t : State) (x1 y1 x2 y2 color : U16),
    ((¬InFrame x1.toNat y1.toNat ∧ exec (.pixel x1 y1 color) s = .next t) ∨
     (¬(InFrame x1.toNat y1.toNat ∧ InFrame x2.toNat y2.toNat) ∧ exec (.line x1 y1 x2 y2 color) s = .next t)) →
    t.report.length = s.report.length + 1 ∧ t.trace.length = s.trace.length + 1 ∧
    SameEffect s t (exec i s) (exec i t)

/-- Rules R21, R101: under `Reference` nothing depends on a color's low byte. -/
def Obligations.LowColorByteIsNeverSent : Prop :=
  ∀ (s : State) (color color' : U16), color.toNat / 256 = color'.toNat / 256 →
    (∀ x y, exec (.pixel x y color) s = exec (.pixel x y color') s) ∧
    (∀ x1 y1 x2 y2, exec (.line x1 y1 x2 y2 color) s = exec (.line x1 y1 x2 y2 color') s) ∧
    (∀ x y size filled, exec (.rect x y size color filled) s = exec (.rect x y size color' filled) s)

/-! ## Invariants that every step keeps -/

/-- The invariants hold at power-up. -/
def Obligations.PowerUpInvariants : Prop := BlockInv State.reset ∧ ReceiverInv State.reset

/-- Rule R72 (marked derived), R93: the idle levels. -/
def Obligations.StepKeepsIdleLevels : Prop :=
  ∀ s t : State, IdleInv s → step s = .next t → IdleInv t

/-- Rule R24: the latches are always what the trace says they are. -/
def Obligations.StepKeepsWaveform : Prop :=
  ∀ s t : State, WaveformInv s → step s = .next t → WaveformInv t

/-- Rules R18, R120: the reporting channel holds exactly the reports of the trace. -/
def Obligations.StepKeepsReports : Prop :=
  ∀ s t : State, ReportInv s → step s = .next t → ReportInv t

/-- Rules R72, R143, R145: in the whole trace `RS` and `D` are set before `WR` falls and left alone until it has risen,
`CS` is low around it, and every strobe is held. The premise rules out states whose trace is not their own history. -/
def Obligations.StepKeepsTransferOrder : Prop :=
  ∀ s t : State, IdleInv s → WaveformInv s → TraceOrdered s → step s = .next t → TraceOrdered t

/-- Rule R72 (marked derived): `RS` and `D` hold the word of the most recent bus write, or their idle values. -/
def Obligations.StepKeepsLastWord : Prop :=
  ∀ s t : State, IdleInv s → WaveformInv s → LastWordInv s → step s = .next t → LastWordInv t

/-- The frame memory keeps its canonical form and the receiver's position stays allowed (rules R39 to R41; logs 6, 8:
the receiver is the model's environment). -/
def Obligations.StepKeepsReceiver : Prop :=
  ∀ s t : State, ReceiverInv s → step s = .next t → ReceiverInv t

/-! ## The receiver (environment; logs 6 to 12) -/

/-- Rule R38, with the receiver as the model's environment (log 10): every strobe of `WR` is one word sent to it, and nothing
else is. -/
def Obligations.EveryStrobeIsCounted : Prop :=
  ∀ (i : Instr) (s t : State), exec i s = .next t →
    t.receiver.strobes = s.receiver.strobes + strobeCount (t.trace.drop s.trace.length)

/-- Rules R39, R40, with the receiver as the model's environment (logs 6, 10, 12): a window-set sent to a receiver that awaits
a command sets its four registers and places its write position at the first cell; no byte of frame memory changes. -/
def Obligations.WindowSetPlacesWritePosition : Prop :=
  ∀ (s : State) (x1 y1 x2 y2 : U16), precondition s (.setWin x1 y1 x2 y2) → s.latches.rst = .high →
    awaitsCommand s.receiver = true →
    ∃ t, exec (.setWin x1 y1 x2 y2) s = .next t ∧ t.receiver.strobes = s.receiver.strobes + 11 ∧
      IfTook s t (t.receiver.window = ⟨x1, x2, y1, y2⟩ ∧ t.receiver.phase = .stream 0 none ∧
        ∀ a, t.receiver.gram.read a = s.receiver.gram.read a)

/-- Rules R40, R47 (logs 6, 8, 10, 12): a drawn pixel's cell ends as `{hi8(color), 0xFF}`; every other byte is unchanged. -/
def Obligations.PixelWritesItsCell : Prop :=
  ∀ (s : State) (x y color : U16), Ready s → InFrame x.toNat y.toNat → s.latches.rst = .high →
    awaitsCommand s.receiver = true →
    ∃ t, exec (.pixel x y color) s = .next t ∧ IfTook s t (awaitsCommand t.receiver = true ∧
      t.receiver.gram.read (addr x.toNat y.toNat) = some (hi color.toNat) ∧
      t.receiver.gram.read (addr x.toNat y.toNat + 1) = some 0xFF ∧
      ∀ a, ¬inCell x.toNat y.toNat a → t.receiver.gram.read a = s.receiver.gram.read a)

/-- Rules R40, R47, R111 (logs 6, 8, 10, 12): a filled rectangle writes the cells of its rows that are in frame, when its
right edge is, each with `{hi8(color), 0xFF}`, and leaves every other byte as it was. -/
def Obligations.FillWritesItsBlock : Prop :=
  ∀ (s : State) (x y size color : U16), Ready s → x.toNat + size.toNat < 240 → s.latches.rst = .high →
    awaitsCommand s.receiver = true →
    ∃ t, exec (.rect x y size color true) s = .next t ∧ IfTook s t (awaitsCommand t.receiver = true ∧
      (∀ i j, i ≤ size.toNat → j ≤ size.toNat → y.toNat + j < 320 →
        t.receiver.gram.read (addr (x.toNat + i) (y.toNat + j)) = some (hi color.toNat) ∧
        t.receiver.gram.read (addr (x.toNat + i) (y.toNat + j) + 1) = some 0xFF) ∧
      ∀ a, (∀ i j, i ≤ size.toNat → j ≤ size.toNat → y.toNat + j < 320 →
          ¬inCell (x.toNat + i) (y.toNat + j) a) →
        t.receiver.gram.read a = s.receiver.gram.read a)

/-- Rules R40, R47, R110 to R112 (logs 6, 8, 10, 12): a rectangle, filled or outline, in frame or partly out of it, writes the
cells of its in-frame lines, each with `{hi8(color), 0xFF}`, and no other byte. -/
def Obligations.RectWritesItsCells : Prop :=
  ∀ (s : State) (x y size color : U16) (filled : Bool), Ready s → s.latches.rst = .high →
    awaitsCommand s.receiver = true →
    ∃ t, exec (.rect x y size color filled) s = .next t ∧ IfTook s t (awaitsCommand t.receiver = true ∧
      (∀ p ∈ rectCells x.toNat y.toNat size.toNat filled,
        t.receiver.gram.read (addr p.1 p.2) = some (hi color.toNat) ∧
        t.receiver.gram.read (addr p.1 p.2 + 1) = some 0xFF) ∧
      ∀ a, (∀ p ∈ rectCells x.toNat y.toNat size.toNat filled, ¬inCell p.1 p.2 a) →
        t.receiver.gram.read a = s.receiver.gram.read a)

/-- Rules R104, R40, R47 (logs 6, 8, 10, 12): what a `LINE` in frame writes: every touched cell, with `{hi8(color), 0xFF}`, and
no other byte. Which cells a slanted line touches is decision D16's (rule R107, U16). -/
def Obligations.LineWritesItsTouchList : Prop :=
  ∀ (s : State) (x1 y1 x2 y2 color : U16), Ready s → InFrame x1.toNat y1.toNat → InFrame x2.toNat y2.toNat →
    s.latches.rst = .high → awaitsCommand s.receiver = true →
    ∃ touched t, Touches x1.toNat y1.toNat x2.toNat y2.toNat touched ∧
      exec (.line x1 y1 x2 y2 color) s = .next t ∧ IfTook s t (awaitsCommand t.receiver = true ∧
        (∀ p ∈ touched, t.receiver.gram.read (addr p.1 p.2) = some (hi color.toNat) ∧
          t.receiver.gram.read (addr p.1 p.2 + 1) = some 0xFF) ∧
        ∀ a, (∀ p ∈ touched, ¬inCell p.1 p.2 a) → t.receiver.gram.read a = s.receiver.gram.read a)

/-- Rule R40 (logs 6, 8, 10): after a window-set, `2n` data bytes fill the first `n` cells of the window in row-major
order, wrapping at `x2`, for any `n` up to the window's size; every other byte is unchanged. A receiver that awaits a
command may be in the middle of a stream, which the first command word ends: the model's presumption (log 12). -/
def Obligations.StreamFillsWindowRowMajor : Prop :=
  ∀ (s : State) (x1 y1 x2 y2 : U16) (pixels : List (Byte × Byte)),
    precondition s (.setWin x1 y1 x2 y2) → s.latches.rst = .high → awaitsCommand s.receiver = true →
    pixels.length ≤ (x2.toNat - x1.toNat + 1) * (y2.toNat - y1.toNat + 1) →
    ∃ t u, exec (.setWin x1 y1 x2 y2) s = .next t ∧
      exec (.dataBytes (pixels.flatMap (fun p => [p.1, p.2]))) t = .next u ∧ IfTook s u (
      (∀ n (h : n < pixels.length),
        let a := addr (x1.toNat + n % (x2.toNat - x1.toNat + 1)) (y1.toNat + n / (x2.toNat - x1.toNat + 1))
        u.receiver.gram.read a = some (pixels[n]).1 ∧ u.receiver.gram.read (a + 1) = some (pixels[n]).2) ∧
      ∀ a, (∀ n, n < pixels.length →
          ¬inCell (x1.toNat + n % (x2.toNat - x1.toNat + 1)) (y1.toNat + n / (x2.toNat - x1.toNat + 1)) a) →
        u.receiver.gram.read a = s.receiver.gram.read a)

/-- Rules R40, R41, R47 (logs 6, 10): a transfer changes no byte of frame memory but those of the cell being streamed, unless
it leaves the receiver unspecified, and then no byte has specified contents. After the first byte of a pixel neither byte
of its cell has; after the second the cell holds the two bytes sent. -/
def Obligations.TransferMemoryFrame : Prop :=
  ∀ (s t : State) (byte : Byte) (isData : Bool), exec (.xfer byte isData) s = .next t →
    if t.receiver.phase = .unspecified then ∀ a, t.receiver.gram.read a = none
    else
      (isData = false → ∀ a, t.receiver.gram.read a = s.receiver.gram.read a) ∧
      (isData = true →
        (∀ a, a ∉ streamBytes s.receiver → t.receiver.gram.read a = s.receiver.gram.read a) ∧
        (∀ n, s.receiver.phase = .stream n none →
          t.receiver.gram.read (streamAddr s.receiver.window n) = none ∧
          t.receiver.gram.read (streamAddr s.receiver.window n + 1) = none) ∧
        (∀ n first, s.receiver.phase = .stream n (some first) →
          t.receiver.gram.read (streamAddr s.receiver.window n) = some first ∧
          t.receiver.gram.read (streamAddr s.receiver.window n + 1) = some byte))

/-- Rule R41 (logs 6, 10): after `CONFIGURE`, `RESET` and `INIT` no byte of frame memory has specified contents. `INIT` leaves a
receiver that awaits a command exactly when no word came between the reset and it, and every word of it was accepted. -/
def Obligations.FrameMemoryUnspecifiedAfterReset : Prop :=
  ∀ (i : Instr) (s t : State), (i = .configure ∨ i = .reset ∨ i = .init) → exec i s = .next t →
    (∀ a, t.receiver.gram.read a = none) ∧
    (i = .configure → t.receiver.phase = .unspecified) ∧
    (i = .reset → t.receiver.phase = .sinceReset 0) ∧
    (i = .init →
      (s.receiver.phase = .sinceReset 0 ∧ s.latches.rst = .high ∧ Took s t → t.receiver.phase = .idle) ∧
      (¬(s.receiver.phase = .sinceReset 0 ∧ s.latches.rst = .high ∧ Took s t) →
        t.receiver.phase = .unspecified))

/-- Rule R41 (logs 6, 10, 11): the situations about which nothing is known. Words between a reset and `INIT` are only
counted, so that `INIT` after any of them leaves an unspecified receiver. -/
def Obligations.UnspecifiedSituations : Prop :=
  ∀ (r : Receiver) (b : Byte),
    (r.phase = .unspecified → ∀ rs, (r.take rs b).phase = .unspecified) ∧
    (∀ n, r.phase = .sinceReset n → ∀ rs, (r.take rs b).phase = .sinceReset (n + 1)) ∧
    (r.phase = .idle → (r.take true b).phase = .unspecified) ∧
    (∀ got, r.phase = .colSet got ∨ r.phase = .rowSet got → (r.take false b).phase = .unspecified) ∧
    (∀ n first, r.phase = .stream n (some first) → (r.take false b).phase = .unspecified) ∧
    (awaitsCommand r = true → b ≠ 0x2A → b ≠ 0x2B → b ≠ 0x2C → (r.take false b).phase = .unspecified) ∧
    (awaitsCommand r = true →
      (r.window.xs.toNat > r.window.xe.toNat ∨ r.window.xe.toNat ≥ 240 ∨
        r.window.ys.toNat > r.window.ye.toNat ∨ r.window.ye.toNat ≥ 320) →
      (r.take false 0x2C).phase = .unspecified) ∧
    (∀ b0 b1 b2, r.phase = .colSet [b0, b1, b2] →
      (b0.toNat * 256 + b1.toNat > b2.toNat * 256 + b.toNat ∨ b2.toNat * 256 + b.toNat ≥ 240) →
      (r.take true b).phase = .unspecified) ∧
    (∀ b0 b1 b2, r.phase = .rowSet [b0, b1, b2] →
      (b0.toNat * 256 + b1.toNat > b2.toNat * 256 + b.toNat ∨ b2.toNat * 256 + b.toNat ≥ 320) →
      (r.take true b).phase = .unspecified) ∧
    (∀ n, r.phase = .stream n none → windowCells r.window ≤ n → (r.take true b).phase = .unspecified) ∧
    (∀ rst rs, rst = .low ∨ Config.wordAccepted r.strobes = false → (r.accept rst rs b).phase = .unspecified) ∧
    (∀ rst rs, (r.accept rst rs b).phase = .unspecified → (r.accept rst rs b).gram = [])

/-! ## Encoding -/

/-- A step runs the decoded instruction, on the state with the request taken; with none pending it waits (log 2). -/
def Obligations.StepRunsDecodedRequest : Prop :=
  ∀ s : State,
    (s.pending = [] → step s = .next s) ∧
    (∀ r rest i, s.pending = r :: rest → decodeRequest r = .ok i → step s = exec i { s with pending := rest })

/-- Words written out from the spec's encodings (rules R54, R60; 95_test_vectors.md V47 to V50). -/
def Obligations.WrittenWordsDecode : Prop :=
  decodeTableWord 96 0x000000000000000000000000 = some .configure ∧
  decodeTableWord 96 0x1800000000000000000000FF = some (.xfer 0xFF true) ∧
  decodeTableWord 96 0x2FFFFFFFFFFFFFFFFFFFFFFF = some .reset ∧
  decodeTableWord 96 0x400005000A0005000A000000 = some (.setWin 5 10 5 10) ∧
  decodeTableWord 96 0x500005000AFFFFFFFF1234FF = some (.pixel 5 10 0x1234) ∧
  decodeTableWord 96 0x6000000000000A0003F80000 = some (.line 0 0 10 3 0xF800) ∧
  decodeTableWord 96 0x78001400140005000007E000 = some (.rect 20 20 5 0x07E0 true) ∧
  decodeTableWord 96 0xF00000000000000000000000 = some (.reservedOp 15) ∧
  decodeTableWord 16 0x0CF = some .scriptCF ∧ decodeTableWord 16 0x02A = some .winCol2A ∧
  decodeTableWord 16 0x1FF = some (.dataWord 0xFF) ∧ decodeTableWord 16 0x000 = some (.cmdWord 0x00)

/-- Rules R50, R54, R59, R60: decoding the encoding of a well-formed instruction gives it back, for every row that has an
encoding of its own, with every operand at every value. -/
def Obligations.DecodeOfEncode : Prop :=
  ∀ i : Instr, i.wellFormed = true → i.isPseudo = false → ∃ r, encode i = [r] ∧ decodeRequest r = .ok i

/-- Rules R50, R54: every wire word decodes to a well-formed row whose encoding is that word. -/
def Obligations.EveryWireWordIsItsRow : Prop :=
  ∀ w : WireWord, (decodeWire w).wellFormed = true ∧ encode (decodeWire w) = [.wire w]

/-- Rule R60: a field not listed for an operation is ignored by the decoder and is zero in the canonical encoding. -/
def Obligations.UnlistedFieldsIgnored : Prop :=
  ∀ f : Frame,
    decodeFrame f = decodeFrame (f &&& usedBits f.op.toNat) ∧
    encode (decodeFrame f) = [.frame (f &&& usedBits f.op.toNat)]

/-- Rule R61: `OP` values `0x8 .. 0xF` are refused with no pin activity and no state change; every other frame is an
operation, whatever its fields hold. -/
def Obligations.ReservedOpsRefused : Prop :=
  ∀ (f : Frame) (s : State) (rest : List Request), s.pending = .frame f :: rest →
    (f.op.toNat ≥ 8 → step s = .refused .reservedOp) ∧
    (f.op.toNat < 8 → isOperation (decodeFrame f) = true)

/-- Rule R64: a pseudo-operation is its expansion: performing the frames of its encoding one after another does what it
does, but that each frame returns a status of its own. -/
def Obligations.PseudoOperationsExpand : Prop :=
  ∀ (s : State) (bytes : List Byte) (rest : List Request), s.cfg = true → s.pending = rest →
    ∃ t u, exec (.dataBytes bytes) s = .next t ∧
      Host.Core.run core bytes.length { s with pending := encode (.dataBytes bytes) ++ rest } = .next u ∧
      u = { t with returns := s.returns ++ List.replicate bytes.length .ok } ∧
      (∀ b : Byte, step { s with pending := encode (.cmd b) ++ rest } = exec (.cmd b) s ∧
        step { s with pending := encode (.data b) ++ rest } = exec (.data b) s)

/-! ## Pins -/

/-- Rules R5, R23, R35: the thirteen pin identities are distinct, and bit `i` of `D` goes to data pin `i`, in ascending
order. -/
def Obligations.DataBitsGoToTheirPins : Prop :=
  ∀ (c : Config), Function.Injective c.pinOf ∧
    ∀ b : Byte, pinWrites c (.data b) =
      [(c.pinOf (.data 0), b.getLsbD 0), (c.pinOf (.data 1), b.getLsbD 1), (c.pinOf (.data 2), b.getLsbD 2),
       (c.pinOf (.data 3), b.getLsbD 3), (c.pinOf (.data 4), b.getLsbD 4), (c.pinOf (.data 5), b.getLsbD 5),
       (c.pinOf (.data 6), b.getLsbD 6), (c.pinOf (.data 7), b.getLsbD 7)]
end

