-- ==== Sys2Proof/Laws/Decode.lean ====
section
/-! SUPPORT. Each field of a built frame and of a built wire word is the value it was built from (rules R50, R59). -/

namespace Sys2Proof

variable (op : BitVec 4) (flag : Bool) (a b c e color : U16) (byte : Byte)

/-- A field of a built frame is the vector it was built from when its bits are. -/
theorem Frame.field_build {w : Nat} (start : Nat) (v : BitVec w)
    (h : ∀ i, i < w → (Frame.build op flag a b c e color byte).getLsbD (start + i) = v.getLsbD i) :
    (Frame.build op flag a b c e color byte).extractLsb' start w = v := by
  apply BitVec.eq_of_getLsbD_eq
  intro i hi
  rw [BitVec.getLsbD_extractLsb', h i hi]
  simp [hi]

@[simp] theorem Frame.op_build : (Frame.build op flag a b c e color byte).op = op := by
  refine Frame.field_build op flag a b c e color byte 92 op (fun i hi => ?_)
  simp (disch := omega) only [Frame.build, BitVec.getLsbD_append, if_neg]
  congr 1
  omega

@[simp] theorem Frame.flag_build : (Frame.build op flag a b c e color byte).flag = flag := by
  simp (disch := omega) only [Frame.flag, Frame.build, BitVec.getLsbD_append, if_pos, if_neg]
  simp

@[simp] theorem Frame.a_build : (Frame.build op flag a b c e color byte).a = a := by
  refine Frame.field_build op flag a b c e color byte 72 a (fun i hi => ?_)
  simp (disch := omega) only [Frame.build, BitVec.getLsbD_append, if_pos, if_neg]
  congr 1
  omega

@[simp] theorem Frame.b_build : (Frame.build op flag a b c e color byte).b = b := by
  refine Frame.field_build op flag a b c e color byte 56 b (fun i hi => ?_)
  simp (disch := omega) only [Frame.build, BitVec.getLsbD_append, if_pos, if_neg]
  congr 1
  omega

@[simp] theorem Frame.c_build : (Frame.build op flag a b c e color byte).c = c := by
  refine Frame.field_build op flag a b c e color byte 40 c (fun i hi => ?_)
  simp (disch := omega) only [Frame.build, BitVec.getLsbD_append, if_pos, if_neg]
  congr 1
  omega

@[simp] theorem Frame.e_build : (Frame.build op flag a b c e color byte).e = e := by
  refine Frame.field_build op flag a b c e color byte 24 e (fun i hi => ?_)
  simp (disch := omega) only [Frame.build, BitVec.getLsbD_append, if_pos, if_neg]
  congr 1
  omega

@[simp] theorem Frame.color_build : (Frame.build op flag a b c e color byte).color = color := by
  refine Frame.field_build op flag a b c e color byte 8 color (fun i hi => ?_)
  simp (disch := omega) only [Frame.build, BitVec.getLsbD_append, if_pos, if_neg]
  congr 1
  omega

@[simp] theorem Frame.byte_build : (Frame.build op flag a b c e color byte).byte = byte := by
  refine Frame.field_build op flag a b c e color byte 0 byte (fun i hi => ?_)
  simp (disch := omega) only [Frame.build, BitVec.getLsbD_append, if_pos]
  congr 1
  omega

/-- The reserved bits of a built frame are zero (rule R60). -/
theorem Frame.reserved_build : (Frame.build op flag a b c e color byte).extractLsb' 88 3 = 0 := by
  refine Frame.field_build op flag a b c e color byte 88 0 (fun i hi => ?_)
  simp (disch := omega) only [Frame.build, BitVec.getLsbD_append, if_pos, if_neg]
  simp

@[simp] theorem WireWord.rs_build (rs : Bool) : (WireWord.build rs byte).rs = rs := by
  simp only [WireWord.rs, WireWord.build, BitVec.getLsbD_append]
  rw [if_neg (by omega)]
  simp

@[simp] theorem WireWord.byte_build (rs : Bool) : (WireWord.build rs byte).byte = byte := by
  apply BitVec.eq_of_getLsbD_eq
  intro i hi
  simp only [WireWord.byte, WireWord.build, BitVec.getLsbD_extractLsb', BitVec.getLsbD_append, hi, decide_true,
    Bool.true_and]
  rw [if_pos (by omega)]
  congr 1; omega

/-- A wire word is its register-select bit and its byte. -/
theorem WireWord.build_rs_byte (w : WireWord) : WireWord.build w.rs w.byte = w := by
  apply BitVec.eq_of_getLsbD_eq
  intro i hi
  have h : i < 8 ∨ i = 8 := by omega
  rcases h with h | rfl
  · simp only [WireWord.build, WireWord.byte, BitVec.getLsbD_append, BitVec.getLsbD_extractLsb', h, if_pos,
      decide_true, Bool.true_and, Nat.zero_add]
  · simp only [WireWord.build, WireWord.rs, BitVec.getLsbD_append]
    rw [if_neg (by omega)]
    simp

end Sys2Proof
end

