-- ==== Sys2Proof/Laws/State.lean ====
section
/-! SUPPORT. One lemma per field per update of the state, and the latches one signal at a time. -/

namespace Sys2Proof.Machine

@[simp] theorem claimPins_latches (s : State) : (claimPins s).latches = Latches.claimed := rfl
@[simp] theorem claimPins_cfg (s : State) : (claimPins s).cfg = s.cfg := rfl
@[simp] theorem claimPins_lc (s : State) : (claimPins s).lc = s.lc := rfl
@[simp] theorem claimPins_trace (s : State) : (claimPins s).trace = s.trace ++ [.claim] := rfl
@[simp] theorem claimPins_report (s : State) : (claimPins s).report = s.report := rfl
@[simp] theorem claimPins_returns (s : State) : (claimPins s).returns = s.returns := rfl
@[simp] theorem claimPins_pending (s : State) : (claimPins s).pending = s.pending := rfl
@[simp] theorem claimPins_receiver (s : State) : (claimPins s).receiver = s.receiver.lose := rfl

@[simp] theorem settle_latches (sig : Signal) (l : Bool) (s : State) : (settle sig l s).latches = s.latches.set sig (Level.ofBit l) := rfl
@[simp] theorem settle_cfg (sig : Signal) (l : Bool) (s : State) : (settle sig l s).cfg = s.cfg := rfl
@[simp] theorem settle_lc (sig : Signal) (l : Bool) (s : State) : (settle sig l s).lc = s.lc := rfl
@[simp] theorem settle_trace (sig : Signal) (l : Bool) (s : State) : (settle sig l s).trace = s.trace ++ [.drive sig l] := rfl
@[simp] theorem settle_report (sig : Signal) (l : Bool) (s : State) : (settle sig l s).report = s.report := rfl
@[simp] theorem settle_returns (sig : Signal) (l : Bool) (s : State) : (settle sig l s).returns = s.returns := rfl
@[simp] theorem settle_pending (sig : Signal) (l : Bool) (s : State) : (settle sig l s).pending = s.pending := rfl
@[simp] theorem settle_receiver (sig : Signal) (l : Bool) (s : State) : (settle sig l s).receiver = s.receiver := rfl

@[simp] theorem drive_latches (sig : Signal) (l : Bool) (s : State) : (drive sig l s).latches = s.latches.set sig (Level.ofBit l) := rfl
@[simp] theorem drive_cfg (sig : Signal) (l : Bool) (s : State) : (drive sig l s).cfg = s.cfg := rfl
@[simp] theorem drive_lc (sig : Signal) (l : Bool) (s : State) : (drive sig l s).lc = s.lc := rfl
@[simp] theorem drive_trace (sig : Signal) (l : Bool) (s : State) : (drive sig l s).trace = s.trace ++ [.drive sig l] := rfl
@[simp] theorem drive_report (sig : Signal) (l : Bool) (s : State) : (drive sig l s).report = s.report := rfl
@[simp] theorem drive_returns (sig : Signal) (l : Bool) (s : State) : (drive sig l s).returns = s.returns := rfl
@[simp] theorem drive_pending (sig : Signal) (l : Bool) (s : State) : (drive sig l s).pending = s.pending := rfl
@[simp] theorem drive_receiver (sig : Signal) (l : Bool) (s : State) : (drive sig l s).receiver = s.receiver.sense s.latches (s.latches.set sig (Level.ofBit l)) := rfl

@[simp] theorem output_latches (b : Byte) (s : State) : (output b s).latches = { s.latches with d := .byte b } := rfl
@[simp] theorem output_cfg (b : Byte) (s : State) : (output b s).cfg = s.cfg := rfl
@[simp] theorem output_lc (b : Byte) (s : State) : (output b s).lc = s.lc := rfl
@[simp] theorem output_trace (b : Byte) (s : State) : (output b s).trace = s.trace ++ [.data b] := rfl
@[simp] theorem output_report (b : Byte) (s : State) : (output b s).report = s.report := rfl
@[simp] theorem output_returns (b : Byte) (s : State) : (output b s).returns = s.returns := rfl
@[simp] theorem output_pending (b : Byte) (s : State) : (output b s).pending = s.pending := rfl
@[simp] theorem output_receiver (b : Byte) (s : State) : (output b s).receiver = s.receiver := rfl

@[simp] theorem delay_latches (us : Nat) (s : State) : (delay us s).latches = s.latches := rfl
@[simp] theorem delay_cfg (us : Nat) (s : State) : (delay us s).cfg = s.cfg := rfl
@[simp] theorem delay_lc (us : Nat) (s : State) : (delay us s).lc = s.lc := rfl
@[simp] theorem delay_trace (us : Nat) (s : State) : (delay us s).trace = s.trace ++ [.delay us] := rfl
@[simp] theorem delay_report (us : Nat) (s : State) : (delay us s).report = s.report := rfl
@[simp] theorem delay_returns (us : Nat) (s : State) : (delay us s).returns = s.returns := rfl
@[simp] theorem delay_pending (us : Nat) (s : State) : (delay us s).pending = s.pending := rfl
@[simp] theorem delay_receiver (us : Nat) (s : State) : (delay us s).receiver = s.receiver := rfl

@[simp] theorem setLifecycle_latches (l : Lifecycle) (s : State) : (setLifecycle l s).latches = s.latches := rfl
@[simp] theorem setLifecycle_cfg (l : Lifecycle) (s : State) : (setLifecycle l s).cfg = s.cfg := rfl
@[simp] theorem setLifecycle_lc (l : Lifecycle) (s : State) : (setLifecycle l s).lc = l := rfl
@[simp] theorem setLifecycle_trace (l : Lifecycle) (s : State) : (setLifecycle l s).trace = s.trace := rfl
@[simp] theorem setLifecycle_report (l : Lifecycle) (s : State) : (setLifecycle l s).report = s.report := rfl
@[simp] theorem setLifecycle_returns (l : Lifecycle) (s : State) : (setLifecycle l s).returns = s.returns := rfl
@[simp] theorem setLifecycle_pending (l : Lifecycle) (s : State) : (setLifecycle l s).pending = s.pending := rfl
@[simp] theorem setLifecycle_receiver (l : Lifecycle) (s : State) : (setLifecycle l s).receiver = s.receiver := rfl

@[simp] theorem raiseOutOfBounds_latches (info : ReportInfo) (s : State) : (raiseOutOfBounds info s).1.latches = s.latches := rfl
@[simp] theorem raiseOutOfBounds_cfg (info : ReportInfo) (s : State) : (raiseOutOfBounds info s).1.cfg = s.cfg := rfl
@[simp] theorem raiseOutOfBounds_lc (info : ReportInfo) (s : State) : (raiseOutOfBounds info s).1.lc = s.lc := rfl
@[simp] theorem raiseOutOfBounds_trace (info : ReportInfo) (s : State) : (raiseOutOfBounds info s).1.trace = s.trace ++ [.report (.outOfBounds info)] := rfl
@[simp] theorem raiseOutOfBounds_report (info : ReportInfo) (s : State) : (raiseOutOfBounds info s).1.report = s.report ++ [.outOfBounds info] := rfl
@[simp] theorem raiseOutOfBounds_returns (info : ReportInfo) (s : State) : (raiseOutOfBounds info s).1.returns = s.returns := rfl
@[simp] theorem raiseOutOfBounds_pending (info : ReportInfo) (s : State) : (raiseOutOfBounds info s).1.pending = s.pending := rfl
@[simp] theorem raiseOutOfBounds_receiver (info : ReportInfo) (s : State) : (raiseOutOfBounds info s).1.receiver = s.receiver := rfl
@[simp] theorem raiseOutOfBounds_status (info : ReportInfo) (s : State) : (raiseOutOfBounds info s).2 = .outOfBounds := rfl

@[simp] theorem Receiver.lose_phase (r : Receiver) : r.lose.phase = .unspecified := rfl
@[simp] theorem Receiver.lose_window (r : Receiver) : r.lose.window = Config.freeWindow r.draws := rfl
@[simp] theorem Receiver.lose_gram (r : Receiver) : r.lose.gram = [] := rfl
@[simp] theorem Receiver.lose_draws (r : Receiver) : r.lose.draws = r.draws + 1 := rfl
@[simp] theorem Receiver.lose_strobes (r : Receiver) : r.lose.strobes = r.strobes := rfl

@[simp] theorem Receiver.senseReset_same (r : Receiver) (l : Level) : r.senseReset l l = r := by cases l <;> rfl
@[simp] theorem Receiver.senseReset_falls (r : Receiver) : r.senseReset .high .low = r.lose := rfl
@[simp] theorem Receiver.senseReset_rises (r : Receiver) :
    r.senseReset .low .high = { r with phase := .sinceReset 0 } := rfl
@[simp] theorem Receiver.senseReset_lose (r : Receiver) (l : Level) : (r.senseReset l .high).lose = r.lose := by
  cases l <;> rfl

@[simp] theorem Latches.set_rd_rd (ls : Latches) (l : Level) : (ls.set .rd l).rd = l := rfl
@[simp] theorem Latches.set_rd_wr (ls : Latches) (l : Level) : (ls.set .rd l).wr = ls.wr := rfl
@[simp] theorem Latches.set_rd_rs (ls : Latches) (l : Level) : (ls.set .rd l).rs = ls.rs := rfl
@[simp] theorem Latches.set_rd_cs (ls : Latches) (l : Level) : (ls.set .rd l).cs = ls.cs := rfl
@[simp] theorem Latches.set_rd_rst (ls : Latches) (l : Level) : (ls.set .rd l).rst = ls.rst := rfl
@[simp] theorem Latches.set_rd_d (ls : Latches) (l : Level) : (ls.set .rd l).d = ls.d := rfl
@[simp] theorem Latches.set_wr_rd (ls : Latches) (l : Level) : (ls.set .wr l).rd = ls.rd := rfl
@[simp] theorem Latches.set_wr_wr (ls : Latches) (l : Level) : (ls.set .wr l).wr = l := rfl
@[simp] theorem Latches.set_wr_rs (ls : Latches) (l : Level) : (ls.set .wr l).rs = ls.rs := rfl
@[simp] theorem Latches.set_wr_cs (ls : Latches) (l : Level) : (ls.set .wr l).cs = ls.cs := rfl
@[simp] theorem Latches.set_wr_rst (ls : Latches) (l : Level) : (ls.set .wr l).rst = ls.rst := rfl
@[simp] theorem Latches.set_wr_d (ls : Latches) (l : Level) : (ls.set .wr l).d = ls.d := rfl
@[simp] theorem Latches.set_rs_rd (ls : Latches) (l : Level) : (ls.set .rs l).rd = ls.rd := rfl
@[simp] theorem Latches.set_rs_wr (ls : Latches) (l : Level) : (ls.set .rs l).wr = ls.wr := rfl
@[simp] theorem Latches.set_rs_rs (ls : Latches) (l : Level) : (ls.set .rs l).rs = l := rfl
@[simp] theorem Latches.set_rs_cs (ls : Latches) (l : Level) : (ls.set .rs l).cs = ls.cs := rfl
@[simp] theorem Latches.set_rs_rst (ls : Latches) (l : Level) : (ls.set .rs l).rst = ls.rst := rfl
@[simp] theorem Latches.set_rs_d (ls : Latches) (l : Level) : (ls.set .rs l).d = ls.d := rfl
@[simp] theorem Latches.set_cs_rd (ls : Latches) (l : Level) : (ls.set .cs l).rd = ls.rd := rfl
@[simp] theorem Latches.set_cs_wr (ls : Latches) (l : Level) : (ls.set .cs l).wr = ls.wr := rfl
@[simp] theorem Latches.set_cs_rs (ls : Latches) (l : Level) : (ls.set .cs l).rs = ls.rs := rfl
@[simp] theorem Latches.set_cs_cs (ls : Latches) (l : Level) : (ls.set .cs l).cs = l := rfl
@[simp] theorem Latches.set_cs_rst (ls : Latches) (l : Level) : (ls.set .cs l).rst = ls.rst := rfl
@[simp] theorem Latches.set_cs_d (ls : Latches) (l : Level) : (ls.set .cs l).d = ls.d := rfl
@[simp] theorem Latches.set_rst_rd (ls : Latches) (l : Level) : (ls.set .rst l).rd = ls.rd := rfl
@[simp] theorem Latches.set_rst_wr (ls : Latches) (l : Level) : (ls.set .rst l).wr = ls.wr := rfl
@[simp] theorem Latches.set_rst_rs (ls : Latches) (l : Level) : (ls.set .rst l).rs = ls.rs := rfl
@[simp] theorem Latches.set_rst_cs (ls : Latches) (l : Level) : (ls.set .rst l).cs = ls.cs := rfl
@[simp] theorem Latches.set_rst_rst (ls : Latches) (l : Level) : (ls.set .rst l).rst = l := rfl
@[simp] theorem Latches.set_rst_d (ls : Latches) (l : Level) : (ls.set .rst l).d = ls.d := rfl
@[simp] theorem Latches.get_rd (ls : Latches) : ls.get .rd = ls.rd := rfl
@[simp] theorem Latches.get_wr (ls : Latches) : ls.get .wr = ls.wr := rfl
@[simp] theorem Latches.get_rs (ls : Latches) : ls.get .rs = ls.rs := rfl
@[simp] theorem Latches.get_cs (ls : Latches) : ls.get .cs = ls.cs := rfl
@[simp] theorem Latches.get_rst (ls : Latches) : ls.get .rst = ls.rst := rfl
@[simp] theorem Level.ofBit_true : Level.ofBit true = .high := rfl
@[simp] theorem Level.ofBit_false : Level.ofBit false = .low := rfl

theorem Level.ofBit_ne_unclaimed (b : Bool) : Level.ofBit b ≠ .unclaimed := by cases b <;> decide

@[simp] theorem hardware_tStrobeUs : hardware.tStrobeUs = 1 := rfl
@[simp] theorem hardware_rsIdle : hardware.rsIdle = true := rfl
@[simp] theorem hardware_rstIdle : hardware.rstIdle = true := rfl
@[simp] theorem hardware_pixelLowByte : hardware.pixelLowByte = .reference := rfl
@[simp] theorem hardware_lineSteep : hardware.lineSteep = .reference := rfl

end Sys2Proof.Machine
end

