-- ==== Sys2Proof/Laws/Ops.lean ====
section
/-! SUPPORT. What each shared operation does, once: the bus write, bus writes in a row, the outcomes of the preconditions,
and invocations in order. -/

namespace Sys2Proof.Machine

/-! ## The bus write (rule R71) -/

/-- The latches a bus write of `w` leaves (rule R71). -/
def latchesAfter (ls : Latches) (w : Bool × Byte) : Latches :=
  { ls with wr := .high, rs := Level.ofBit w.1, cs := .high, d := .byte w.2 }

theorem busWrite_eq (c : Config) (d : Bool) (b : Byte) (s : State) :
    busWrite c d b s =
      { s with
        latches := latchesAfter s.latches (d, b)
        trace := s.trace ++ wordEvents c (d, b)
        receiver := s.receiver.accept s.latches.rst d b } := by
  obtain ⟨⟨rd, wr, rs, cs, rst, latch⟩, cfg, lc, trace, report, returns, pending, receiver⟩ := s
  cases d <;> cases wr <;>
    simp [busWrite, drive, settle, output, delay, Receiver.sense, strobedWord, latchesAfter, wordEvents, Latches.set,
      Level.ofBit]

@[simp] theorem busWrite_latches (c : Config) (d : Bool) (b : Byte) (s : State) :
    (busWrite c d b s).latches = latchesAfter s.latches (d, b) := by rw [busWrite_eq]
@[simp] theorem busWrite_trace (c : Config) (d : Bool) (b : Byte) (s : State) :
    (busWrite c d b s).trace = s.trace ++ wordEvents c (d, b) := by rw [busWrite_eq]
@[simp] theorem busWrite_receiver (c : Config) (d : Bool) (b : Byte) (s : State) :
    (busWrite c d b s).receiver = s.receiver.accept s.latches.rst d b := by rw [busWrite_eq]

/-! ## Bus writes in a row (rule R31) -/

/-- The latches after bus writes in a row. -/
def latchesAfterAll (ls : Latches) (ws : List (Bool × Byte)) : Latches := ws.foldl latchesAfter ls

/-- The receiver after wire words in a row, `RST` standing at `rst`. -/
def acceptAll (rst : Level) (r : Receiver) (ws : List (Bool × Byte)) : Receiver :=
  ws.foldl (fun r w => r.accept rst w.1 w.2) r

@[simp] theorem latchesAfter_rst (ls : Latches) (w : Bool × Byte) : (latchesAfter ls w).rst = ls.rst := rfl
@[simp] theorem latchesAfter_rd (ls : Latches) (w : Bool × Byte) : (latchesAfter ls w).rd = ls.rd := rfl

@[simp] theorem latchesAfterAll_nil (ls : Latches) : latchesAfterAll ls [] = ls := rfl
@[simp] theorem latchesAfterAll_cons (ls : Latches) (w : Bool × Byte) (ws : List (Bool × Byte)) :
    latchesAfterAll ls (w :: ws) = latchesAfterAll (latchesAfter ls w) ws := rfl
theorem latchesAfterAll_append (ls : Latches) (ws ws' : List (Bool × Byte)) :
    latchesAfterAll ls (ws ++ ws') = latchesAfterAll (latchesAfterAll ls ws) ws' := List.foldl_append

@[simp] theorem latchesAfter_latchesAfter (ls : Latches) (w w' : Bool × Byte) :
    latchesAfter (latchesAfter ls w) w' = latchesAfter ls w' := rfl

theorem latchesAfterAll_concat (ls : Latches) (ws : List (Bool × Byte)) (w : Bool × Byte) :
    latchesAfterAll ls (ws ++ [w]) = latchesAfter ls w := by
  induction ws generalizing ls with
  | nil => rfl
  | cons v vs ih => simpa using ih (latchesAfter ls v)

@[simp] theorem latchesAfterAll_rst (ls : Latches) (ws : List (Bool × Byte)) :
    (latchesAfterAll ls ws).rst = ls.rst := by
  induction ws generalizing ls with
  | nil => rfl
  | cons w ws ih => simpa using ih (latchesAfter ls w)

theorem busWrites_eq (c : Config) (ws : List (Bool × Byte)) (s : State) :
    busWrites c ws s =
      { s with
        latches := latchesAfterAll s.latches ws
        trace := s.trace ++ ws.flatMap (wordEvents c)
        receiver := acceptAll s.latches.rst s.receiver ws } := by
  induction ws generalizing s with
  | nil => simp [busWrites, acceptAll]
  | cons w ws ih =>
    have : busWrites c (w :: ws) s = busWrites c ws (busWrite c w.1 w.2 s) := rfl
    rw [this, ih, busWrite_eq]
    simp [acceptAll]

theorem busWrites_append (c : Config) (ws ws' : List (Bool × Byte)) (s : State) :
    busWrites c (ws ++ ws') s = busWrites c ws' (busWrites c ws s) := List.foldl_append

theorem busWrites_latches_concat (c : Config) (ws : List (Bool × Byte)) (w : Bool × Byte) (s : State) :
    (busWrites c (ws ++ [w]) s).latches = latchesAfter s.latches w := by
  rw [busWrites_eq]; exact latchesAfterAll_concat _ _ _

/-! ## Outcomes -/

theorem whenConfigured_next {s : State} {k : Outcome} {t : State} :
    whenConfigured s k = .next t ↔ s.cfg = true ∧ k = .next t := by
  unfold whenConfigured
  split <;> simp [*]

theorem whenConfigured_of_cfg {s : State} (h : s.cfg = true) (k : Outcome) : whenConfigured s k = k := if_pos h

theorem whenConfigured_of_not {s : State} (h : s.cfg = false) (k : Outcome) :
    whenConfigured s k = .refused .notConfigured := by simp [whenConfigured, h]

theorem whenLifecycle_next {l : Lifecycle} {s : State} {k : Outcome} {t : State} :
    whenLifecycle l s k = .next t ↔ s.lc = l ∧ k = .next t := by
  unfold whenLifecycle
  split <;> simp [*]

theorem whenLifecycle_of_eq {l : Lifecycle} {s : State} (h : s.lc = l) (k : Outcome) : whenLifecycle l s k = k := if_pos h

theorem whenLifecycle_of_ne {l : Lifecycle} {s : State} (h : s.lc ≠ l) (k : Outcome) :
    whenLifecycle l s k = .refused .wrongLifecycle := if_neg h

theorem finish_next {r : State × Status} {t : State} :
    finish r = .next t ↔ { r.1 with returns := r.1.returns ++ [r.2] } = t := by
  simp [finish]

/-! ## Invocations in order (rule R7) -/

@[simp] theorem inOrder_nil (s : State) : inOrder [] s = (s, .ok) := rfl
theorem inOrder_cons (op : State → State × Status) (ops : List (State → State × Status)) (s : State) :
    inOrder (op :: ops) s = ((inOrder ops (op s).1).1, (op s).2.both (inOrder ops (op s).1).2) := rfl

@[simp] theorem Status.both_ok (st : Status) : Status.both .ok st = st := rfl
@[simp] theorem Status.both_outOfBounds (st : Status) : Status.both .outOfBounds st = .outOfBounds := rfl
@[simp] theorem Status.both_ok_right (st : Status) : Status.both st .ok = st := by cases st <;> rfl

/-- A property of states that each invocation keeps is kept by all of them in order. -/
theorem inOrder_keeps (P : State → Prop) (ops : List (State → State × Status)) (s : State)
    (hops : ∀ op ∈ ops, ∀ s, P s → P (op s).1) (h : P s) : P (inOrder ops s).1 := by
  induction ops generalizing s with
  | nil => exact h
  | cons op ops ih =>
    rw [inOrder_cons]
    exact ih _ (fun o ho => hops o (List.mem_cons_of_mem _ ho)) (hops op List.mem_cons_self s h)

/-! ## Drawing (rules R101, R104) -/

theorem drawPixel_of_inFrame {c : Config} {x y : Nat} (h : inFrame x y = true) (color : U16) (s : State) :
    drawPixel c x y color s = (busWrites c (pixelWords c x y color) s, .ok) := by simp [drawPixel, h]

theorem drawPixel_of_outOfFrame {c : Config} {x y : Nat} (h : inFrame x y = false) (color : U16) (s : State) :
    drawPixel c x y color s = raiseOutOfBounds (.pixel x y) s := by simp [drawPixel, h]

/-- In-frame pixels in a row are bus writes in a row, and return `Ok`. -/
theorem drawPixels_of_inFrame {c : Config} {points : List (Nat × Nat)} (h : ∀ p ∈ points, inFrame p.1 p.2 = true)
    (color : U16) (s : State) :
    drawPixels c color points s = (busWrites c (points.flatMap (fun p => pixelWords c p.1 p.2 color)) s, .ok) := by
  induction points generalizing s with
  | nil => rfl
  | cons p ps ih =>
    have hp := h p List.mem_cons_self
    have hps := fun q hq => h q (List.mem_cons_of_mem _ hq)
    have : drawPixels c color (p :: ps) s =
        ((drawPixels c color ps (drawPixel c p.1 p.2 color s).1).1,
         (drawPixel c p.1 p.2 color s).2.both (drawPixels c color ps (drawPixel c p.1 p.2 color s).1).2) := rfl
    rw [this, drawPixel_of_inFrame hp, ih hps, List.flatMap_cons, busWrites_append]
    rfl

end Sys2Proof.Machine
end

