-- ==== Sys2Proof/Laws/Families.lean ====
section
/-! SUPPORT. What the body of each operation does, once: the state it leaves, in one equation. -/

namespace Sys2Proof.Machine

/-! ## Bus Driver (rule R70) -/

/-- The events of `CONFIGURE` (rule R70). -/
def configureEvents (c : Config) : List Event :=
  [.claim, .drive .rd true, .drive .wr true, .drive .rs c.rsIdle, .drive .cs true, .drive .rst c.rstIdle, .data 0x00]

theorem configureBody_eq (c : Config) (s : State) :
    configureBody c s =
      { s with
        latches := ⟨.high, .high, Level.ofBit c.rsIdle, .high, Level.ofBit c.rstIdle, .byte 0x00⟩
        cfg := true
        trace := s.trace ++ configureEvents c
        receiver := s.receiver.lose } := by
  simp [configureBody, settle, output, claimPins, configureEvents, Latches.set]

/-! ## Controller Sequencer (rules R85, R87) -/

/-- The events of `RESET` (rule R85). -/
def resetEvents : List Event :=
  [.drive .rst true, .delay 5000, .drive .rst false, .delay 15000, .drive .rst true, .delay 15000]

theorem resetBody_eq (s : State) :
    resetBody s =
      { s with
        latches := { s.latches with rst := .high }
        lc := .runningInitScript
        trace := s.trace ++ resetEvents
        receiver := { s.receiver.lose with phase := .sinceReset 0 } } := by
  obtain ⟨⟨rd, wr, rs, cs, rst, latch⟩, cfg, lc, trace, report, returns, pending, receiver⟩ := s
  cases wr <;>
    simp [resetBody, setLifecycle, drive, settle, delay, resetEvents, Receiver.sense, strobedWord, Latches.set,
      tRstHigh1Us, tRstLowUs, tRstHigh2Us]

/-- The wire words of a script entry (rule R87). -/
def entryWords (e : ScriptEntry) : List (Bool × Byte) := cmdWord e.opcode :: e.payload.map dataWord

/-- The events of a script entry (rule R87). -/
def entryEvents (c : Config) (e : ScriptEntry) : List Event :=
  (entryWords e).flatMap (wordEvents c) ++ if e.waitUs > 0 then [.delay e.waitUs] else []

theorem runEntry_eq (c : Config) (e : ScriptEntry) (s : State) :
    runEntry c e s =
      { s with
        latches := latchesAfterAll s.latches (entryWords e)
        trace := s.trace ++ entryEvents c e
        receiver := acceptAll s.latches.rst s.receiver (entryWords e) } := by
  unfold runEntry entryEvents
  rw [show cmdWord e.opcode :: e.payload.map dataWord = entryWords e from rfl, busWrites_eq]
  split <;> simp [delay]

theorem runScript_eq (c : Config) (script : List ScriptEntry) (s : State) :
    runScript c script s =
      { s with
        latches := latchesAfterAll s.latches (script.flatMap entryWords)
        trace := s.trace ++ script.flatMap (entryEvents c)
        receiver := acceptAll s.latches.rst s.receiver (script.flatMap entryWords) } := by
  induction script generalizing s with
  | nil => simp [runScript, acceptAll]
  | cons e es ih =>
    have : runScript c (e :: es) s = runScript c es (runEntry c e s) := rfl
    rw [this, ih, runEntry_eq]
    simp [latchesAfterAll_append, acceptAll]

theorem initScript_words_concat :
    initScript.flatMap entryWords = (initScript.dropLast.flatMap entryWords) ++ [(false, 0x29)] := by decide

theorem initScript_words_length : (initScript.flatMap entryWords).length = 82 := by decide

theorem initBody_eq (c : Config) (s : State) :
    initBody c s =
      { s with
        latches := latchesAfter s.latches (false, 0x29)
        lc := .awakeReady
        trace := s.trace ++ initScript.flatMap (entryEvents c)
        receiver := (acceptAll s.latches.rst s.receiver (initScript.flatMap entryWords)).broughtUp 82 } := by
  have hl : latchesAfterAll s.latches (initScript.flatMap entryWords) = latchesAfter s.latches (false, 0x29) := by
    rw [initScript_words_concat, latchesAfterAll_concat]
  unfold initBody setLifecycle
  rw [runScript_eq, hl, show scriptWords initScript = 82 from rfl]

/-! ## Rasterization Engine (rules R104, R110) -/

theorem drawLine_of_outOfFrame {c : Config} {x1 y1 x2 y2 : Nat} (h : (inFrame x1 y1 && inFrame x2 y2) = false)
    (color : U16) (s : State) : drawLine c x1 y1 x2 y2 color s = raiseOutOfBounds (.line x1 y1 x2 y2) s := by
  simp [drawLine, h]

theorem drawLine_of_inFrame {c : Config} {x1 y1 x2 y2 : Nat} (h : (inFrame x1 y1 && inFrame x2 y2) = true)
    (color : U16) (s : State) :
    drawLine c x1 y1 x2 y2 color s = drawPixels c color (lineTouches c x1 y1 x2 y2) s := by
  simp [drawLine, h]

theorem mem_ascending {a b n : Nat} : n ∈ ascending a b ↔ a ≤ n ∧ n ≤ b := by
  simp [ascending, List.mem_range'_1]
  omega

theorem ascending_length (a b : Nat) : (ascending a b).length = b + 1 - a := List.length_range'

/-- Every draw operation is made of bus writes and reports: a property of states that both keep, drawing keeps. -/
theorem drawPixel_keeps (P : State → Prop) (c : Config)
    (hw : ∀ d b s, P s → P (busWrite c d b s)) (hr : ∀ info s, P s → P (raiseOutOfBounds info s).1)
    (x y : Nat) (color : U16) (s : State) (h : P s) : P (drawPixel c x y color s).1 := by
  unfold drawPixel
  split
  · have : ∀ (ws : List (Bool × Byte)) (s : State), P s → P (busWrites c ws s) := by
      intro ws
      induction ws with
      | nil => exact fun _ h => h
      | cons w ws ih => exact fun s h => ih _ (hw _ _ _ h)
    exact this _ _ h
  · exact hr _ _ h

theorem drawLine_keeps (P : State → Prop) (c : Config)
    (hw : ∀ d b s, P s → P (busWrite c d b s)) (hr : ∀ info s, P s → P (raiseOutOfBounds info s).1)
    (x1 y1 x2 y2 : Nat) (color : U16) (s : State) (h : P s) : P (drawLine c x1 y1 x2 y2 color s).1 := by
  unfold drawLine
  split
  · refine inOrder_keeps P _ _ (fun op hop s hs => ?_) h
    obtain ⟨p, -, rfl⟩ := List.mem_map.1 hop
    exact drawPixel_keeps P c hw hr _ _ _ _ hs
  · exact hr _ _ h

theorem drawRect_keeps (P : State → Prop) (c : Config)
    (hw : ∀ d b s, P s → P (busWrite c d b s)) (hr : ∀ info s, P s → P (raiseOutOfBounds info s).1)
    (x y size : Nat) (color : U16) (filled : Bool) (s : State) (h : P s) :
    P (drawRect c x y size color filled s).1 := by
  refine inOrder_keeps P _ _ (fun op hop s hs => ?_) h
  obtain ⟨l, -, rfl⟩ := List.mem_map.1 hop
  exact drawLine_keeps P c hw hr _ _ _ _ _ _ hs

end Sys2Proof.Machine
end

