-- ==== Sys2Proof/Laws/Receiver.lean ====
section
/-! SUPPORT. What the receiver does with words it accepts, in a row, with a window-set and with a pixel; what is left of
it when it accepts one word too few; and the bytes of an operand. -/

namespace Sys2Proof.Machine

theorem joinBytes_hi8_lo8 (v : U16) : joinBytes (hi8 v) (lo8 v) = v := by
  apply BitVec.eq_of_toNat_eq
  simp only [joinBytes, hi8, lo8, BitVec.toNat_append, BitVec.extractLsb'_toNat]
  have := v.isLt
  rw [Nat.shiftLeft_eq, ← Nat.mul_comm, ← Nat.two_pow_add_eq_or_of_lt (by omega)]
  simp only [Nat.shiftRight_eq_div_pow]
  omega

theorem hi8_toNat (v : U16) : (hi8 v).toNat = v.toNat / 256 := by
  have := v.isLt
  simp only [hi8, BitVec.extractLsb'_toNat, Nat.shiftRight_eq_div_pow]
  omega

theorem lo8_toNat (v : U16) : (lo8 v).toNat = v.toNat % 256 := by
  simp [lo8, BitVec.extractLsb'_toNat]

@[simp] theorem acceptAll_nil (rst : Level) (r : Receiver) : acceptAll rst r [] = r := rfl
theorem acceptAll_cons (rst : Level) (r : Receiver) (w : Bool × Byte) (ws : List (Bool × Byte)) :
    acceptAll rst r (w :: ws) = acceptAll rst (r.accept rst w.1 w.2) ws := rfl
theorem acceptAll_append (rst : Level) (r : Receiver) (ws ws' : List (Bool × Byte)) :
    acceptAll rst r (ws ++ ws') = acceptAll rst (acceptAll rst r ws) ws' := List.foldl_append

/-- The receiver after wire words in a row that it accepts. -/
def takeAll (r : Receiver) (ws : List (Bool × Byte)) : Receiver := ws.foldl (fun r w => r.take w.1 w.2) r

@[simp] theorem takeAll_nil (r : Receiver) : takeAll r [] = r := rfl
theorem takeAll_cons (r : Receiver) (w : Bool × Byte) (ws : List (Bool × Byte)) :
    takeAll r (w :: ws) = takeAll (r.take w.1 w.2) ws := rfl
theorem takeAll_append (r : Receiver) (ws ws' : List (Bool × Byte)) :
    takeAll r (ws ++ ws') = takeAll (takeAll r ws) ws' := List.foldl_append

/-! ## Acceptance (rule R41; log 10) -/

theorem startCommand_strobes (r : Receiver) (n : Nat) (b : Byte) :
    ({ r with strobes := n }).startCommand b = { r.startCommand b with strobes := n } := by
  unfold Receiver.startCommand
  split_ifs <;> rfl

theorem takeColumns_strobes (r : Receiver) (n : Nat) (got : List Byte) :
    ({ r with strobes := n }).takeColumns got = { r.takeColumns got with strobes := n } := by
  unfold Receiver.takeColumns
  split
  · dsimp only
    split_ifs <;> rfl
  · rfl

theorem takeRows_strobes (r : Receiver) (n : Nat) (got : List Byte) :
    ({ r with strobes := n }).takeRows got = { r.takeRows got with strobes := n } := by
  unfold Receiver.takeRows
  split
  · dsimp only
    split_ifs <;> rfl
  · rfl

/-- Taking a word neither reads nor changes the count of strobes. -/
theorem take_strobes (r : Receiver) (n : Nat) (rs : Bool) (b : Byte) :
    ({ r with strobes := n }).take rs b = { r.take rs b with strobes := n } := by
  cases rs
  · simp only [Receiver.take, Receiver.command, Bool.false_eq_true, if_false, startCommand_strobes]
    split <;> rfl
  · simp only [Receiver.take, Receiver.dataByte, if_true, takeColumns_strobes, takeRows_strobes]
    split <;> (try split_ifs) <;> rfl

theorem takeAll_strobes (r : Receiver) (n : Nat) (ws : List (Bool × Byte)) :
    takeAll { r with strobes := n } ws = { takeAll r ws with strobes := n } := by
  induction ws generalizing r with
  | nil => rfl
  | cons w ws ih => rw [takeAll_cons, take_strobes, ih, takeAll_cons]

theorem accept_strobes (r : Receiver) (rst : Level) (rs : Bool) (b : Byte) :
    (r.accept rst rs b).strobes = r.strobes + 1 := rfl

/-- Every word strobed is counted, accepted or not. -/
theorem acceptAll_strobes (rst : Level) (r : Receiver) (ws : List (Bool × Byte)) :
    (acceptAll rst r ws).strobes = r.strobes + ws.length := by
  induction ws generalizing r with
  | nil => rfl
  | cons w ws ih => rw [acceptAll_cons, ih, accept_strobes, List.length_cons]; omega

/-- Nothing is known of the receiver (rule R41). -/
def Unknown (r : Receiver) : Prop := r.phase = .unspecified ∧ r.gram = []

theorem unknown_lose (r : Receiver) : Unknown r.lose := ⟨rfl, rfl⟩

theorem Unknown.accept {r : Receiver} (h : Unknown r) (rst : Level) (rs : Bool) (b : Byte) :
    Unknown (r.accept rst rs b) := by
  unfold Receiver.accept
  split
  · cases rs <;> simp [Receiver.take, Receiver.dataByte, Receiver.command, h.1, Unknown]
  · exact unknown_lose r

theorem Unknown.acceptAll {r : Receiver} (h : Unknown r) (rst : Level) (ws : List (Bool × Byte)) :
    Unknown (acceptAll rst r ws) := by
  induction ws generalizing r with
  | nil => exact h
  | cons w ws ih => exact ih (h.accept rst w.1 w.2)

/-- Words in a row at `RST = 1`, each accepted: they are all taken. -/
theorem acceptAll_of_accepted {r : Receiver} {ws : List (Bool × Byte)}
    (h : ∀ k, k < ws.length → Config.wordAccepted (r.strobes + k) = true) :
    acceptAll .high r ws = { takeAll r ws with strobes := r.strobes + ws.length } := by
  induction ws generalizing r with
  | nil => rfl
  | cons w ws ih =>
    have h0 := h 0 (Nat.zero_lt_succ _)
    have ha : r.accept .high w.1 w.2 = { r.take w.1 w.2 with strobes := r.strobes + 1 } := by
      simp only [Receiver.accept, Nat.add_zero] at h0 ⊢
      rw [if_pos ⟨trivial, h0⟩]
    rw [acceptAll_cons, ha, ih, takeAll_strobes, takeAll_cons, List.length_cons, Nat.add_right_comm, Nat.add_assoc]
    intro k hk
    have := h (k + 1) (Nat.succ_lt_succ hk)
    rwa [Nat.add_comm k 1, ← Nat.add_assoc] at this

/-- Words in a row of which one is not accepted: nothing is known afterwards. -/
theorem acceptAll_of_not_accepted {r : Receiver} {ws : List (Bool × Byte)} (rst : Level) {k : Nat} (hk : k < ws.length)
    (h : Config.wordAccepted (r.strobes + k) = false) : Unknown (acceptAll rst r ws) := by
  induction ws generalizing r k with
  | nil => exact absurd hk (Nat.not_lt_zero _)
  | cons w ws ih =>
    cases k with
    | zero =>
      refine Unknown.acceptAll ?_ rst ws
      simp only [Receiver.accept, Nat.add_zero] at h ⊢
      rw [if_neg (by simp [h])]
      exact unknown_lose r
    | succ k =>
      refine ih (k := k) (Nat.lt_of_succ_lt_succ hk) ?_
      rwa [accept_strobes, Nat.add_assoc, Nat.add_comm 1 k]

/-- Words taken after a reset are counted and give no information (log 6). -/
theorem takeAll_sinceReset {r : Receiver} {n : Nat} (h : r.phase = .sinceReset n) (ws : List (Bool × Byte)) :
    takeAll r ws = { r with phase := .sinceReset (n + ws.length) } := by
  induction ws generalizing r n with
  | nil => cases r; simp_all
  | cons w ws ih =>
    have ht : r.take w.1 w.2 = { r with phase := .sinceReset (n + 1) } := by
      cases hw : w.1 <;> simp [Receiver.take, Receiver.dataByte, Receiver.command, h]
    rw [takeAll_cons, ht, ih rfl, List.length_cons, Nat.add_assoc, Nat.add_comm 1]

@[simp] theorem broughtUp_strobes (r : Receiver) (n : Nat) : (r.broughtUp n).strobes = r.strobes := by
  unfold Receiver.broughtUp
  split <;> rfl

@[simp] theorem broughtUp_gram (r : Receiver) (n : Nat) : (r.broughtUp n).gram = [] := by
  unfold Receiver.broughtUp
  split <;> rfl

/-- A receiver comes out of `INIT` awaiting a command, or nothing is known of it. -/
theorem broughtUp_phase (r : Receiver) (n : Nat) :
    (r.broughtUp n).phase = if r.phase = .sinceReset n then .idle else .unspecified := by
  unfold Receiver.broughtUp
  split <;> rfl

/-! ## Frames and windows -/

theorem inFrame_iff {x y : Nat} : inFrame x y = true ↔ x < 240 ∧ y < 320 := by
  simp [inFrame]

theorem isAddressWindow_iff {x1 y1 x2 y2 : Nat} :
    isAddressWindow x1 y1 x2 y2 = true ↔ x1 ≤ x2 ∧ x2 < 240 ∧ y1 ≤ y2 ∧ y2 < 320 := by
  simp [isAddressWindow, and_assoc]

/-- A receiver that awaits a command starts the command it is sent. -/
theorem take_command {r : Receiver} (h : awaitsCommand r = true) (b : Byte) : r.take false b = r.startCommand b := by
  unfold awaitsCommand at h
  simp only [Receiver.take, Receiver.command]
  split at h <;> simp_all

/-- The eleven words of a window-set, taken by a receiver that awaits a command (rules R39, R40). -/
theorem takeAll_windowWords {r : Receiver} (h : awaitsCommand r = true) {x1 y1 x2 y2 : U16}
    (hw : isAddressWindow x1.toNat y1.toNat x2.toNat y2.toNat = true) :
    takeAll r (windowWords x1 y1 x2 y2) =
      { r with phase := .stream 0 none, window := ⟨x1, x2, y1, y2⟩ } := by
  simp only [isAddressWindow, Bool.and_eq_true, decide_eq_true_eq] at hw
  obtain ⟨⟨⟨h1, h2⟩, h3⟩, h4⟩ := hw
  simp only [windowWords, takeAll_cons, takeAll_nil, cmdWord, dataWord, take_command h]
  simp [Receiver.take, Receiver.startCommand, Receiver.dataByte, Receiver.takeColumns, Receiver.takeRows,
    Receiver.command, joinBytes_hi8_lo8, columnsValid, rowsValid, h1, h2, h3, h4]

theorem isAddressWindow_cell {x y : Nat} (h : inFrame x y = true) : isAddressWindow x y x y = true := by
  simp only [inFrame, Bool.and_eq_true, decide_eq_true_eq] at h
  simp [isAddressWindow, h.1, h.2]

/-- The thirteen words of an in-frame pixel, taken by a receiver that awaits a command: the cell ends with the two bytes
sent (rules R40, R47). -/
theorem takeAll_pixelWords {r : Receiver} (h : awaitsCommand r = true) (c : Config) {x y : Nat}
    (hf : inFrame x y = true) (color : U16) :
    takeAll r (pixelWords c x y color) =
      { r with
        phase := .stream 1 none
        window := ⟨BitVec.ofNat 16 x, BitVec.ofNat 16 x, BitVec.ofNat 16 y, BitVec.ofNat 16 y⟩
        gram := ((((r.gram.forget (cellAddr x y)).forget (cellAddr x y + 1)).write (cellAddr x y) (hi8 color)).write
          (cellAddr x y + 1) (pixelLowByte c color)) } := by
  have hf' := inFrame_iff.1 hf
  have hx : (BitVec.ofNat 16 x).toNat = x := by simp; omega
  have hy : (BitVec.ofNat 16 y).toNat = y := by simp; omega
  have hw := isAddressWindow_cell hf
  rw [← hx, ← hy] at hw
  rw [pixelWords, takeAll_append, takeAll_windowWords h (by simpa [hx, hy] using hw)]
  simp only [takeAll_cons, takeAll_nil, dataWord]
  simp [Receiver.take, Receiver.dataByte, windowCells, windowColumns, streamAddr, hx, hy]

end Sys2Proof.Machine
end

