-- ==== Sys2Proof/Laws/Exec.lean ====
section
/-! SUPPORT. What an instruction does, once for all of them: the refusal its preconditions give, or its body; and the body
of every instruction but `CONFIGURE`, `RESET` and `INIT` as a list of bus writes and reports. -/

namespace Sys2Proof.Machine

/-! ## Actions -/

/-- What the bodies of drawing and transferring operations are made of. -/
inductive Action where
  | word (w : Bool × Byte)
  | raise (info : ReportInfo)
  deriving DecidableEq, Repr

/-- One action as an invocation. -/
def Action.run : Action → State → State × Status
  | .word w, s => (busWrite hardware w.1 w.2 s, .ok)
  | .raise info, s => raiseOutOfBounds info s

/-- Actions in order. -/
def runActions (as : List Action) (s : State) : State × Status := inOrder (as.map Action.run) s

/-- The wire words among actions. -/
def actionWords (as : List Action) : List (Bool × Byte) :=
  as.filterMap (fun a => match a with
    | .word w => some w
    | .raise _ => none)

/-- The reports among actions. -/
def actionReports (as : List Action) : List ReportRecord :=
  as.filterMap (fun a => match a with
    | .word _ => none
    | .raise info => some (.outOfBounds info))

/-- The events of an action. -/
def Action.events : Action → List Event
  | .word w => wordEvents hardware w
  | .raise info => [.report (.outOfBounds info)]

@[simp] theorem actionWords_nil : actionWords [] = [] := rfl
@[simp] theorem actionWords_word (w : Bool × Byte) (as : List Action) :
    actionWords (.word w :: as) = w :: actionWords as := rfl
@[simp] theorem actionWords_raise (info : ReportInfo) (as : List Action) :
    actionWords (.raise info :: as) = actionWords as := rfl
@[simp] theorem actionWords_append (as bs : List Action) :
    actionWords (as ++ bs) = actionWords as ++ actionWords bs := List.filterMap_append
@[simp] theorem actionReports_nil : actionReports [] = [] := rfl
@[simp] theorem actionReports_word (w : Bool × Byte) (as : List Action) :
    actionReports (.word w :: as) = actionReports as := rfl
@[simp] theorem actionReports_raise (info : ReportInfo) (as : List Action) :
    actionReports (.raise info :: as) = .outOfBounds info :: actionReports as := rfl
@[simp] theorem actionReports_append (as bs : List Action) :
    actionReports (as ++ bs) = actionReports as ++ actionReports bs := List.filterMap_append

theorem Status.both_assoc (a b c : Status) : (a.both b).both c = a.both (b.both c) := by cases a <;> rfl

theorem inOrder_append (ops ops' : List (State → State × Status)) (s : State) :
    inOrder (ops ++ ops') s =
      ((inOrder ops' (inOrder ops s).1).1, (inOrder ops s).2.both (inOrder ops' (inOrder ops s).1).2) := by
  induction ops generalizing s with
  | nil => rfl
  | cons op ops ih => simp only [List.cons_append, inOrder_cons, ih, Status.both_assoc]

theorem runActions_append (as bs : List Action) (s : State) :
    runActions (as ++ bs) s =
      ((runActions bs (runActions as s).1).1, (runActions as s).2.both (runActions bs (runActions as s).1).2) := by
  simp only [runActions, List.map_append, inOrder_append]

@[simp] theorem runActions_nil (s : State) : runActions [] s = (s, .ok) := rfl

theorem runActions_cons (a : Action) (as : List Action) (s : State) :
    runActions (a :: as) s = ((runActions as (a.run s).1).1, (a.run s).2.both (runActions as (a.run s).1).2) := rfl

/-- Invocations in order that are each a list of actions are all the actions in order. -/
theorem inOrder_actions {α : Type} (xs : List α) (f : α → State → State × Status) (acts : α → List Action)
    (h : ∀ x s, f x s = runActions (acts x) s) (s : State) :
    inOrder (xs.map f) s = runActions (xs.flatMap acts) s := by
  induction xs generalizing s with
  | nil => rfl
  | cons x xs ih => rw [List.map_cons, inOrder_cons, List.flatMap_cons, runActions_append, h, ih]

theorem runActions_words (ws : List (Bool × Byte)) (s : State) :
    runActions (ws.map .word) s = (busWrites hardware ws s, .ok) := by
  induction ws generalizing s with
  | nil => rfl
  | cons w ws ih => rw [List.map_cons, runActions_cons, ih]; rfl

/-- Everything actions can do: the latches and the receiver follow the words, the trace and the reports grow. -/
theorem runActions_eq (as : List Action) (s : State) :
    runActions as s =
      ({ s with
        latches := latchesAfterAll s.latches (actionWords as)
        trace := s.trace ++ as.flatMap Action.events
        report := s.report ++ actionReports as
        receiver := acceptAll s.latches.rst s.receiver (actionWords as) },
       if (actionReports as).isEmpty then .ok else .outOfBounds) := by
  induction as generalizing s with
  | nil => simp [acceptAll]
  | cons a as ih =>
    rw [runActions_cons, ih]
    cases a with
    | word w => simp [Action.run, busWrite_eq, Action.events, acceptAll_cons]
    | raise info => simp [Action.run, raiseOutOfBounds, Action.events]

/-- A property that a bus write and a report keep, actions keep. -/
theorem runActions_keeps (P : State → Prop) (hw : ∀ (w : Bool × Byte) s, P s → P (busWrite hardware w.1 w.2 s))
    (hr : ∀ info s, P s → P (raiseOutOfBounds info s).1) (as : List Action) (s : State) (h : P s) :
    P (runActions as s).1 := by
  refine inOrder_keeps P _ _ (fun op hop s hs => ?_) h
  obtain ⟨a, -, rfl⟩ := List.mem_map.1 hop
  cases a with
  | word w => exact hw w s hs
  | raise info => exact hr info s hs

/-! ## The actions of each instruction -/

/-- `PIXEL` (rule R101). -/
def pixelActions (x y : Nat) (color : U16) : List Action :=
  if inFrame x y then (pixelWords hardware x y color).map .word else [.raise (.pixel x y)]

/-- `LINE` (rule R104). -/
def lineActions (x1 y1 x2 y2 : Nat) (color : U16) : List Action :=
  if inFrame x1 y1 && inFrame x2 y2 then
    (lineTouches hardware x1 y1 x2 y2).flatMap (fun p => pixelActions p.1 p.2 color)
  else [.raise (.line x1 y1 x2 y2)]

/-- `RECT` (rule R110). -/
def rectActions (x y size : Nat) (color : U16) (filled : Bool) : List Action :=
  (rectLines x y size filled).flatMap (fun l => lineActions l.1 l.2.1 l.2.2.1 l.2.2.2 color)

theorem drawPixel_actions (x y : Nat) (color : U16) (s : State) :
    drawPixel hardware x y color s = runActions (pixelActions x y color) s := by
  unfold drawPixel pixelActions
  split
  · rw [runActions_words]
  · rfl

theorem drawLine_actions (x1 y1 x2 y2 : Nat) (color : U16) (s : State) :
    drawLine hardware x1 y1 x2 y2 color s = runActions (lineActions x1 y1 x2 y2 color) s := by
  unfold drawLine lineActions
  split
  · exact inOrder_actions _ _ _ (fun p s => drawPixel_actions p.1 p.2 color s) s
  · rfl

theorem drawRect_actions (x y size : Nat) (color : U16) (filled : Bool) (s : State) :
    drawRect hardware x y size color filled s = runActions (rectActions x y size color filled) s :=
  inOrder_actions _ _ _ (fun l s => drawLine_actions l.1 l.2.1 l.2.2.1 l.2.2.2 color s) s

/-- The one wire word of a wire row; `none` for the other instructions. -/
def wireWordOf : Instr → Option (Bool × Byte)
  | .script01 => some (false, 0x01)
  | .scriptCF => some (false, 0xCF)
  | .scriptED => some (false, 0xED)
  | .scriptE8 => some (false, 0xE8)
  | .scriptCB => some (false, 0xCB)
  | .scriptF7 => some (false, 0xF7)
  | .scriptEA => some (false, 0xEA)
  | .scriptC0 => some (false, 0xC0)
  | .scriptC1 => some (false, 0xC1)
  | .scriptC5 => some (false, 0xC5)
  | .scriptC7 => some (false, 0xC7)
  | .script36 => some (false, 0x36)
  | .script3A => some (false, 0x3A)
  | .scriptB1 => some (false, 0xB1)
  | .scriptB6 => some (false, 0xB6)
  | .scriptF2 => some (false, 0xF2)
  | .script26 => some (false, 0x26)
  | .scriptE0 => some (false, 0xE0)
  | .scriptE1 => some (false, 0xE1)
  | .script11 => some (false, 0x11)
  | .script29 => some (false, 0x29)
  | .winCol2A => some (false, 0x2A)
  | .winRow2B => some (false, 0x2B)
  | .memWrite2C => some (false, 0x2C)
  | .dataWord b => some (true, b)
  | .cmdWord b => some (false, b)
  | _ => none

/-- The actions of an instruction; none for `CONFIGURE`, `RESET`, `INIT` and the reserved row. -/
def actionsOf : Instr → List Action
  | .xfer b d => [.word (d, b)]
  | .cmd b => [.word (false, b)]
  | .data b => [.word (true, b)]
  | .dataBytes bs => (bs.map dataWord).map .word
  | .setWin x1 y1 x2 y2 => (windowWords x1 y1 x2 y2).map .word
  | .pixel x y color => pixelActions x.toNat y.toNat color
  | .line x1 y1 x2 y2 color => lineActions x1.toNat y1.toNat x2.toNat y2.toNat color
  | .rect x y size color filled => rectActions x.toNat y.toNat size.toNat color filled
  | i => (wireWordOf i).toList.map .word

/-- The body of an instruction, without its preconditions and its return. -/
def bodyOf : Instr → State → State × Status
  | .configure, s => (configureBody hardware s, .ok)
  | .reset, s => (resetBody s, .ok)
  | .init, s => (initBody hardware s, .ok)
  | i, s => runActions (actionsOf i) s

/-- The refusal of an instruction's preconditions, from `cfg` and `lc` (rule R124). -/
def refusalOf (cfg : Bool) (lc : Lifecycle) : Instr → Option Refusal
  | .configure => if cfg then some .alreadyConfigured else none
  | .init => if cfg then (if lc = .runningInitScript then none else some .wrongLifecycle) else some .notConfigured
  | .setWin x1 y1 x2 y2 =>
    if cfg then
      if lc = .awakeReady then
        if isAddressWindow x1.toNat y1.toNat x2.toNat y2.toNat then none else some .badWindow
      else some .wrongLifecycle
    else some .notConfigured
  | .pixel _ _ _ => if cfg then (if lc = .awakeReady then none else some .wrongLifecycle) else some .notConfigured
  | .line _ _ _ _ _ => if cfg then (if lc = .awakeReady then none else some .wrongLifecycle) else some .notConfigured
  | .rect _ _ _ _ _ => if cfg then (if lc = .awakeReady then none else some .wrongLifecycle) else some .notConfigured
  | .reservedOp _ => some .reservedOp
  | _ => if cfg then none else some .notConfigured

theorem transfer_eq (d : Bool) (b : Byte) (s : State) :
    transfer hardware d b s = if s.cfg then finish (runActions [.word (d, b)] s) else .refused .notConfigured := rfl

/-- One equation for every instruction: its refusal, or its body and its return. -/
theorem exec_eq (i : Instr) (s : State) :
    exec i s = match refusalOf s.cfg s.lc i with
      | some r => .refused r
      | none => finish (bodyOf i s) := by
  have ht : ∀ (d : Bool) (b : Byte), transfer hardware d b s =
      match (if s.cfg then (none : Option Refusal) else some .notConfigured) with
      | some r => .refused r
      | none => finish (runActions [.word (d, b)] s) := by
    intro d b; rw [transfer_eq]; cases s.cfg <;> rfl
  cases i with
  | configure => simp only [exec, execConfigure, configure, refusalOf, bodyOf]; cases s.cfg <;> rfl
  | xfer b d => exact ht d b
  | cmd b => exact ht false b
  | data b => exact ht true b
  | dataBytes bs =>
    simp only [exec, execDataBytes, dataBytes, refusalOf, bodyOf, actionsOf, runActions_words, whenConfigured]
    cases s.cfg <;> rfl
  | reset => simp only [exec, execReset, whenConfigured, refusalOf, bodyOf]; cases s.cfg <;> rfl
  | init =>
    simp only [exec, execInit, initialise, whenConfigured, whenLifecycle, refusalOf, bodyOf]
    split_ifs <;> rfl
  | setWin x1 y1 x2 y2 =>
    simp only [exec, execSetWin, setWindow, whenConfigured, whenLifecycle, refusalOf, bodyOf, actionsOf,
      runActions_words]
    split_ifs <;> rfl
  | pixel x y color =>
    simp only [exec, execPixel, pixel, whenReady, whenConfigured, whenLifecycle, refusalOf, bodyOf, actionsOf,
      drawPixel_actions]
    split_ifs <;> rfl
  | line x1 y1 x2 y2 color =>
    simp only [exec, execLine, line, whenReady, whenConfigured, whenLifecycle, refusalOf, bodyOf, actionsOf,
      drawLine_actions]
    split_ifs <;> rfl
  | rect x y size color filled =>
    simp only [exec, execRect, rect, whenReady, whenConfigured, whenLifecycle, refusalOf, bodyOf, actionsOf,
      drawRect_actions]
    split_ifs <;> rfl
  | reservedOp op => rfl
  | script01 => exact ht false 0x01
  | scriptCF => exact ht false 0xCF
  | scriptED => exact ht false 0xED
  | scriptE8 => exact ht false 0xE8
  | scriptCB => exact ht false 0xCB
  | scriptF7 => exact ht false 0xF7
  | scriptEA => exact ht false 0xEA
  | scriptC0 => exact ht false 0xC0
  | scriptC1 => exact ht false 0xC1
  | scriptC5 => exact ht false 0xC5
  | scriptC7 => exact ht false 0xC7
  | script36 => exact ht false 0x36
  | script3A => exact ht false 0x3A
  | scriptB1 => exact ht false 0xB1
  | scriptB6 => exact ht false 0xB6
  | scriptF2 => exact ht false 0xF2
  | script26 => exact ht false 0x26
  | scriptE0 => exact ht false 0xE0
  | scriptE1 => exact ht false 0xE1
  | script11 => exact ht false 0x11
  | script29 => exact ht false 0x29
  | winCol2A => exact ht false 0x2A
  | winRow2B => exact ht false 0x2B
  | memWrite2C => exact ht false 0x2C
  | dataWord b => exact ht true b
  | cmdWord b => exact ht false b

/-- An instruction answers a next state exactly when nothing refuses it; the state is its body's, with its return. -/
theorem exec_next {i : Instr} {s t : State} :
    exec i s = .next t ↔
      refusalOf s.cfg s.lc i = none ∧
      t = { (bodyOf i s).1 with returns := (bodyOf i s).1.returns ++ [(bodyOf i s).2] } := by
  rw [exec_eq]
  cases refusalOf s.cfg s.lc i with
  | none => simp [finish, eq_comm]
  | some r => simp

/-- The body of every instruction but `CONFIGURE`, `RESET` and `INIT` is its actions. -/
theorem bodyOf_actions {i : Instr} (hc : i ≠ .configure) (hr : i ≠ .reset) (hi : i ≠ .init) (s : State) :
    bodyOf i s = runActions (actionsOf i) s := by
  unfold bodyOf
  split <;> first | contradiction | rfl

end Sys2Proof.Machine
end

