-- ==== Sys2Proof/Laws/PerInstr.lean ====
section
/-! SUPPORT. Statements about every instruction as written: its encoding is canonical (rule R60). -/

namespace Sys2Proof.Laws.CanonicalEncoding

/-- A request as rule R60 writes it: a frame with zero reserved bits, or a wire word. -/
def canonical : Request → Prop
  | .frame f => f.extractLsb' 88 3 = 0
  | .wire _ => True
  | .invoke _ => False
  | .overlapping _ _ => False

/-- Every request of the instruction's encoding is canonical. -/
def Statement (i : Instr) : Prop := ∀ r ∈ encode i, canonical r

theorem of_build {i : Instr} {op : BitVec 4} {flag : Bool} {a b c e color : U16} {byte : Byte}
    (h : encode i = [.frame (Frame.build op flag a b c e color byte)]) : Statement i := by
  intro r hr
  rw [h, List.mem_singleton] at hr
  subst hr
  exact Frame.reserved_build ..

theorem of_wire {i : Instr} {w : WireWord} (h : encode i = [.wire w]) : Statement i := by
  intro r hr
  rw [h, List.mem_singleton] at hr
  subst hr
  trivial

theorem configure : Statement .configure := of_build rfl
theorem xfer (b : Byte) (d : Bool) : Statement (.xfer b d) := of_build rfl
theorem cmd (b : Byte) : Statement (.cmd b) := of_build rfl
theorem data (b : Byte) : Statement (.data b) := of_build rfl
theorem dataBytes (bs : List Byte) : Statement (.dataBytes bs) := by
  intro r hr
  obtain ⟨b, -, rfl⟩ := List.mem_map.1 hr
  exact Frame.reserved_build ..
theorem reset : Statement .reset := of_build rfl
theorem init : Statement .init := of_build rfl
theorem setWin (x1 y1 x2 y2 : U16) : Statement (.setWin x1 y1 x2 y2) := of_build rfl
theorem pixel (x y color : U16) : Statement (.pixel x y color) := of_build rfl
theorem line (x1 y1 x2 y2 color : U16) : Statement (.line x1 y1 x2 y2 color) := of_build rfl
theorem rect (x y size color : U16) (filled : Bool) : Statement (.rect x y size color filled) := of_build rfl
theorem reservedOp (op : BitVec 4) : Statement (.reservedOp op) := of_build rfl
theorem script01 : Statement .script01 := of_wire rfl
theorem scriptCF : Statement .scriptCF := of_wire rfl
theorem scriptED : Statement .scriptED := of_wire rfl
theorem scriptE8 : Statement .scriptE8 := of_wire rfl
theorem scriptCB : Statement .scriptCB := of_wire rfl
theorem scriptF7 : Statement .scriptF7 := of_wire rfl
theorem scriptEA : Statement .scriptEA := of_wire rfl
theorem scriptC0 : Statement .scriptC0 := of_wire rfl
theorem scriptC1 : Statement .scriptC1 := of_wire rfl
theorem scriptC5 : Statement .scriptC5 := of_wire rfl
theorem scriptC7 : Statement .scriptC7 := of_wire rfl
theorem script36 : Statement .script36 := of_wire rfl
theorem script3A : Statement .script3A := of_wire rfl
theorem scriptB1 : Statement .scriptB1 := of_wire rfl
theorem scriptB6 : Statement .scriptB6 := of_wire rfl
theorem scriptF2 : Statement .scriptF2 := of_wire rfl
theorem script26 : Statement .script26 := of_wire rfl
theorem scriptE0 : Statement .scriptE0 := of_wire rfl
theorem scriptE1 : Statement .scriptE1 := of_wire rfl
theorem script11 : Statement .script11 := of_wire rfl
theorem script29 : Statement .script29 := of_wire rfl
theorem winCol2A : Statement .winCol2A := of_wire rfl
theorem winRow2B : Statement .winRow2B := of_wire rfl
theorem memWrite2C : Statement .memWrite2C := of_wire rfl
theorem dataWord (b : Byte) : Statement (.dataWord b) := of_wire rfl
theorem cmdWord (b : Byte) : Statement (.cmdWord b) := of_wire rfl

end Sys2Proof.Laws.CanonicalEncoding
end

