-- ==== Sys2Proof/Tests/Slice0.lean ====
section
/-! SUPPORT. Small tests of one step or one decoding each, with expected values from the spec's encodings and from
95_test_vectors.md, and for each statement with hypotheses a theorem that meets them. -/

namespace Sys2Proof.Tests

open Sys2Proof.Machine

-- One test after another: with all of them at once Lean runs out of threads.
set_option Elab.async false

/-! ## Helpers -/

/-- A receiver that awaits a command. -/
def quietReceiver : Receiver := { phase := .idle, window := ⟨0, 0, 0, 0⟩, gram := [], draws := 0, strobes := 0 }

/-- The pins, `cfg` and `lc` of `CFG` (95_test_vectors.md, conventions), with empty lists. -/
def cfgState : State :=
  { latches := ⟨.high, .high, .high, .high, .high, .byte 0x00⟩, cfg := true, lc := .uninitialized,
    trace := [], report := [], returns := [], pending := [], receiver := quietReceiver }

/-- `CFG` after `RESET` (vector V12). -/
def runningState : State := { cfgState with lc := .runningInitScript }

/-- The pins, `cfg` and `lc` of `READY` (95_test_vectors.md, conventions), with empty lists. -/
def readyState : State :=
  { cfgState with latches := ⟨.high, .high, .low, .high, .high, .byte 0x29⟩, lc := .awakeReady }

/-- A value read off the next state of an outcome. -/
def look {α : Type} (o : Outcome) (f : State → α) : Option α :=
  match o with
  | .next t => some (f t)
  | .refused _ => none

/-- The reason of a refusal. -/
def reason (o : Outcome) : Option Refusal :=
  match o with
  | .next _ => none
  | .refused r => some r

/-- Wire words written as the three hex digits of the spec (rule R50). -/
def hex (ws : List Nat) : List (Bool × Byte) := ws.map (fun w => (w / 256 == 1, BitVec.ofNat 8 w))

/-- The words a step appended to a state with an empty trace. -/
def sentWords (s : State) (o : Outcome) : Option (List (Bool × Byte)) := look o (fun t => wordsFrom s.latches t.trace)

/-- Whether an outcome is a next state. -/
def completes (o : Outcome) : Bool := (look o (fun _ => ())).isSome

theorem next_of_completes {o : Outcome} (h : completes o = true) : ∃ t, o = .next t := by
  cases o with
  | next t => exact ⟨t, rfl⟩
  | fault f => cases f
  | refused r => cases h

/-- Each instruction of a list answers a next state in the state beside it. -/
def AllComplete (runs : List (Instr × State)) : Prop := ∀ run ∈ runs, ∃ t, exec run.1 run.2 = .next t

theorem allComplete_of {runs : List (Instr × State)} (h : (runs.all fun run => completes (exec run.1 run.2)) = true) :
    AllComplete runs := fun run hrun => next_of_completes (List.all_eq_true.1 h run hrun)

/-- The receiver after words it accepts. -/
def taken (r : Receiver) (ws : List (Bool × Byte)) : Receiver := ws.foldl (fun r w => r.take w.1 w.2) r

/-- The number of words a step appended to a state with an empty trace. -/
def sentCount (o : Outcome) : Option Nat := look o (fun t => strobeCount t.trace)

/-! ## WellFormed -/

theorem test_wellFormed_reservedOp : (Instr.reservedOp 3).wellFormed = false ∧ (Instr.reservedOp 8).wellFormed = true := by
  decide

theorem test_wellFormed_cmdWord : (Instr.cmdWord 0x2A).wellFormed = false ∧ (Instr.cmdWord 0x00).wellFormed = true := by
  decide

/-! ## Decoding: words written out from rules R50, R54, R60 -/

/-- Frames of rule R60, every field a different value: `OP F/rsv A B C E COLOR BYTE`. -/
theorem test_decode_frames :
    decodeTableWord 96 0x000000000000000000000000 = some .configure ∧
    decodeTableWord 96 0x10000000000000000000002A = some (.xfer 0x2A false) ∧
    decodeTableWord 96 0x200000000000000000000000 = some .reset ∧
    decodeTableWord 96 0x300000000000000000000000 = some .init ∧
    decodeTableWord 96 0x40006400C80096012C000000 = some (.setWin 100 200 150 300) ∧
    decodeTableWord 96 0x5000EF013F00000000123400 = some (.pixel 239 319 0x1234) ∧
    decodeTableWord 96 0x6000EF013F00E6013EF80000 = some (.line 239 319 230 318 0xF800) ∧
    decodeTableWord 96 0x7800E6013C00050000FFFF00 = some (.rect 230 316 5 0xFFFF true) ∧
    decodeTableWord 96 0x7000E6013C00050000FFFF00 = some (.rect 230 316 5 0xFFFF false) := by decide +kernel

/-- Vectors V47 to V50: ignored fields and reserved operations. -/
theorem test_decode_ignored_and_reserved :
    decodeTableWord 96 0x2FFFFFFFFFFFFFFFFFFFFFFF = some .reset ∧
    decodeTableWord 96 0x1F000000000000000000002A = some (.xfer 0x2A true) ∧
    decodeTableWord 96 0x500005000AFFFFFFFF1234FF = some (.pixel 5 10 0x1234) ∧
    decodeTableWord 96 0x800000000000000000000000 = some (.reservedOp 8) ∧
    decodeTableWord 96 0xF00000000000000000000000 = some (.reservedOp 15) ∧
    decodeTableWord 96 0x700000000000000000000000 = some (.rect 0 0 0 0 false) := by decide +kernel

/-- Rules R80 to R82 and V9 to V11: the frames of the pseudo-operations are those of `XFER`. -/
theorem test_encode_pseudo :
    encode (.cmd 0x2C) = [.frame 0x10000000000000000000002C] ∧
    encode (.data 0x12) = [.frame 0x180000000000000000000012] ∧
    encode (.dataBytes [0x00, 0x81, 0x30]) =
      [.frame 0x180000000000000000000000, .frame 0x180000000000000000000081, .frame 0x180000000000000000000030] ∧
    encode (.dataBytes []) = [] := by decide +kernel

/-- Rule R54: the command words of the script. -/
theorem test_decode_script_words :
    [0x001, 0x0CF, 0x0ED, 0x0E8, 0x0CB, 0x0F7, 0x0EA, 0x0C0, 0x0C1, 0x0C5, 0x0C7, 0x036, 0x03A, 0x0B1, 0x0B6, 0x0F2,
      0x026, 0x0E0, 0x0E1, 0x011, 0x029].map (decodeTableWord 16) =
    [some .script01, some .scriptCF, some .scriptED, some .scriptE8, some .scriptCB, some .scriptF7, some .scriptEA,
      some .scriptC0, some .scriptC1, some .scriptC5, some .scriptC7, some .script36, some .script3A, some .scriptB1,
      some .scriptB6, some .scriptF2, some .script26, some .scriptE0, some .scriptE1, some .script11,
      some .script29] := by decide +kernel

/-- Rules R50, R54: window, memory-write, data and other command words. -/
theorem test_decode_other_words :
    [0x02A, 0x02B, 0x02C, 0x100, 0x12A, 0x1FF, 0x000, 0x02D, 0x0FF].map (decodeTableWord 16) =
    [some .winCol2A, some .winRow2B, some .memWrite2C, some (.dataWord 0x00), some (.dataWord 0x2A),
      some (.dataWord 0xFF), some (.cmdWord 0x00), some (.cmdWord 0x2D), some (.cmdWord 0xFF)] := by decide +kernel

/-- Rule R63: no other length is an instruction. -/
theorem test_decode_other_lengths : decodeTableWord 8 0x2A = none ∧ decodeTableWord 16 0x200 = none := by decide +kernel

/-! ## Bus Driver -/

/-- V1, from power-up through `withFetchWord`. -/
theorem test_configure :
    look (step (State.reset.withFetchWord 96 0)) (fun t => (t.latches, t.cfg, t.returns)) =
      some (⟨.high, .high, .high, .high, .high, .byte 0x00⟩, true, [.ok]) := by decide +kernel

/-- V8. -/
theorem test_configure_twice : reason (exec .configure cfgState) = some .alreadyConfigured := by decide +kernel

/-- V3. -/
theorem test_xfer_data :
    look (exec (.xfer 0xFF true) cfgState) (fun t => (t.trace, t.latches.d)) =
      some ([.drive .rs true, .drive .cs false, .data 0xFF, .drive .wr false, .delay 1, .drive .wr true, .drive .cs true],
        .byte 0xFF) := by decide +kernel

/-- V7. -/
theorem test_xfer_unconfigured : reason (step (State.reset.withFetchWord 96 0x10000000000000000000002A)) = some .notConfigured := by
  decide +kernel

/-- V6: `T_STROBE_US = 3`. -/
theorem test_transfer_strobe_width :
    look (transfer { hardware with tStrobeUs := 3 } false 0x2C cfgState) (fun t => delays t.trace) = some [3] := by
  decide +kernel

/-! ## Command Layer -/

/-- V9. -/
theorem test_cmd : sentWords cfgState (exec (.cmd 0x2C) cfgState) = some (hex [0x02C]) := by decide +kernel

/-- V10. -/
theorem test_data : sentWords cfgState (exec (.data 0x12) cfgState) = some (hex [0x112]) := by decide +kernel

/-- V11. -/
theorem test_dataBytes :
    sentWords cfgState (exec (.dataBytes [0x00, 0x81, 0x30]) cfgState) = some (hex [0x100, 0x181, 0x130]) := by decide +kernel

/-- V11a. -/
theorem test_dataBytes_empty :
    look (exec (.dataBytes []) cfgState) (fun t => (t.trace, t.returns)) = some ([], [.ok]) := by decide +kernel

/-! ## Controller Sequencer -/

/-- V12. -/
theorem test_reset :
    look (exec .reset cfgState) (fun t => (t.trace, t.lc, t.latches.rst)) =
      some ([.drive .rst true, .delay 5000, .drive .rst false, .delay 15000, .drive .rst true, .delay 15000],
        .runningInitScript, .high) := by decide +kernel

/-- V13. -/
theorem test_reset_when_ready : look (exec .reset readyState) (fun t => t.lc) = some .runningInitScript := by decide +kernel

/-- V14: 21 command words, 61 data words, and the end. -/
theorem test_init :
    initScript.length = 21 ∧ (initScript.map (fun e => e.payload.length)).sum = 61 ∧
    look (exec .init runningState) (fun t => (t.lc, t.returns)) = some (.awakeReady, [.ok]) := by decide +kernel

/-- V15, V16. -/
theorem test_init_refused :
    reason (exec .init cfgState) = some .wrongLifecycle ∧ reason (exec .init readyState) = some .wrongLifecycle := by
  decide +kernel

/-- V18: high bytes before low bytes. -/
theorem test_setWin :
    sentWords readyState (exec (.setWin 0 0 239 319) readyState) =
      some (hex [0x02A, 0x100, 0x100, 0x100, 0x1EF, 0x02B, 0x100, 0x100, 0x101, 0x13F, 0x02C]) := by decide +kernel

/-- V20a, V20b, V20c. -/
theorem test_setWin_refused :
    reason (exec (.setWin 0 0 240 319) readyState) = some .badWindow ∧
    reason (exec (.setWin 6 10 5 10) readyState) = some .badWindow ∧
    reason (exec (.setWin 5 10 5 10) runningState) = some .wrongLifecycle := by decide +kernel

/-! ## Rasterization Engine -/

/-- V21, and V22 under `Corrected`. -/
theorem test_pixel :
    sentWords readyState (exec (.pixel 5 10 0x1234) readyState) =
      some (hex [0x02A, 0x100, 0x105, 0x100, 0x105, 0x02B, 0x100, 0x10A, 0x100, 0x10A, 0x02C, 0x112, 0x1FF]) ∧
    sentWords readyState (pixel { hardware with pixelLowByte := .corrected } 239 319 0x1234 readyState) =
      some (hex [0x02A, 0x100, 0x1EF, 0x100, 0x1EF, 0x02B, 0x101, 0x13F, 0x101, 0x13F, 0x02C, 0x112, 0x134]) := by
  decide +kernel

/-- V26b, and V27c. -/
theorem test_pixel_out_of_bounds :
    look (exec (.pixel 0 320 1) readyState) (fun t => (t.trace, t.report, t.returns)) =
      some ([.report (.outOfBounds (.pixel 0 320))], [.outOfBounds (.pixel 0 320)], [.outOfBounds]) ∧
    reason (exec (.pixel 240 0 1) cfgState) = some .wrongLifecycle := by decide +kernel

/-- V23 and V24: not the reverse of each other. -/
theorem test_line_shallow :
    lineTouches hardware 0 0 10 3 =
      [(0, 0), (1, 0), (2, 1), (3, 1), (4, 1), (5, 1), (6, 2), (7, 2), (8, 2), (9, 3), (10, 3)] ∧
    lineTouches hardware 10 3 0 0 =
      [(10, 3), (9, 3), (8, 2), (7, 2), (6, 2), (5, 2), (4, 1), (3, 1), (2, 1), (1, 0), (0, 0)] := by decide +kernel

/-- V25, V31, V36: steep lines under both policies. -/
theorem test_line_steep :
    look (exec (.line 0 0 3 10 0xF800) readyState) (fun t => (t.trace, t.returns)) = some ([], [.ok]) ∧
    lineTouches { hardware with lineSteep := .corrected } 0 0 3 10 =
      [(0, 0), (0, 1), (1, 2), (1, 3), (1, 4), (1, 5), (2, 6), (2, 7), (2, 8), (3, 9), (3, 10)] ∧
    lineTouches { hardware with lineSteep := .corrected } 0 0 5 5 = [(0, 0), (1, 1), (2, 2), (3, 3), (4, 4), (5, 5)] ∧
    lineTouches { hardware with lineSteep := .corrected } 1 0 0 2 = [(1, 0), (1, 1), (0, 2)] := by decide +kernel

/-- V28, V29: straight runs from either end. -/
theorem test_line_straight :
    lineTouches hardware 5 15 5 10 = [(5, 10), (5, 11), (5, 12), (5, 13), (5, 14), (5, 15)] ∧
    lineTouches hardware 8 10 5 10 = [(5, 10), (6, 10), (7, 10), (8, 10)] := by decide +kernel

/-- V34. -/
theorem test_line_out_of_bounds :
    look (exec (.line 0 0 0 320 0xF800) readyState) (fun t => (t.trace, t.returns)) =
      some ([.report (.outOfBounds (.line 0 0 0 320))], [.outOfBounds]) := by decide +kernel

/-- V40: one cell; and the rows of a larger square. -/
theorem test_rect_fill :
    sentWords readyState (exec (.rect 7 9 0 0x07E0 true) readyState) =
      some (hex [0x02A, 0x100, 0x107, 0x100, 0x107, 0x02B, 0x100, 0x109, 0x100, 0x109, 0x02C, 0x107, 0x1FF]) ∧
    rectLines 20 20 2 true = [(20, 20, 22, 20), (20, 21, 22, 21), (20, 22, 22, 22)] := by decide +kernel

/-- V43: the top edge drawn, three reports in order. -/
theorem test_rect_outline :
    look (exec (.rect 230 316 5 0xFFFF false) readyState) (fun t => (t.report, t.returns)) =
      some ([.outOfBounds (.line 235 316 235 321), .outOfBounds (.line 230 321 235 321),
        .outOfBounds (.line 230 316 230 321)], [.outOfBounds]) := by decide +kernel

/-- V44 (start of it): sums do not wrap. -/
theorem test_rect_no_wrap : (rectLines 239 0 65400 false).head? = some (239, 0, 65639, 0) := by decide +kernel

/-! ## Reserved requests and wire words -/

/-- V49. -/
theorem test_reservedOp : reason (step (readyState.withFetchWord 96 0x800000000000000000000000)) = some .reservedOp := by
  decide +kernel

/-- Rule R124, `Concurrent`. -/
theorem test_concurrent : reason (step { readyState with pending := [.overlapping 0 0] }) = some .concurrent := by decide +kernel

/-- Each command row presents its own word. -/
theorem test_wire_commands :
    [Instr.script01, .scriptCF, .scriptED, .scriptE8, .scriptCB, .scriptF7, .scriptEA, .scriptC0, .scriptC1, .scriptC5,
      .scriptC7, .script36, .script3A, .scriptB1, .scriptB6, .scriptF2, .script26, .scriptE0, .scriptE1, .script11,
      .script29, .winCol2A, .winRow2B, .memWrite2C, .cmdWord 0x00].map
      (fun i => sentWords cfgState (exec i cfgState)) =
    [0x001, 0x0CF, 0x0ED, 0x0E8, 0x0CB, 0x0F7, 0x0EA, 0x0C0, 0x0C1, 0x0C5, 0x0C7, 0x036, 0x03A, 0x0B1, 0x0B6, 0x0F2,
      0x026, 0x0E0, 0x0E1, 0x011, 0x029, 0x02A, 0x02B, 0x02C, 0x000].map (fun w => some (hex [w])) := by decide +kernel

/-- A data word, through the fetch: the word sent, and that it is counted. -/
theorem test_wire_data :
    look (step (readyState.withFetchWord 16 0x1FF)) (fun t => (wordsFrom readyState.latches t.trace, t.receiver.strobes)) =
      some (hex [0x1FF], 1) := by decide +kernel

/-! ## The receiver -/

/-- V51: the cell of V21, when the words of `test_pixel` are accepted. -/
theorem test_receiver_pixel :
    (taken quietReceiver
      (hex [0x02A, 0x100, 0x105, 0x100, 0x105, 0x02B, 0x100, 0x10A, 0x100, 0x10A, 0x02C, 0x112, 0x1FF])).gram =
      [(4810, 0x12), (4811, 0xFF)] := by decide +kernel

/-- V52: the data bytes of a 2 x 2 window, row-major. -/
theorem test_receiver_stream :
    (taken { quietReceiver with phase := .stream 0 none, window := ⟨10, 11, 20, 21⟩ }
      (hex [0x100, 0x101, 0x102, 0x103, 0x104, 0x105, 0x106, 0x107])).gram =
      [(9620, 0), (9621, 1), (9622, 2), (9623, 3), (10100, 4), (10101, 5), (10102, 6), (10103, 7)] := by decide +kernel

/-- Rule R41: a script that follows a reset brings the receiver up; after a lone `0x2A` it does not. -/
theorem test_receiver_bring_up :
    let script := initScript.flatMap (fun e => cmdWord e.opcode :: e.payload.map dataWord)
    let fresh := { Receiver.powerUp with phase := .sinceReset 0 }
    ((taken fresh script).broughtUp 82).phase = .idle ∧
    ((taken fresh ((false, 0x2A) :: script)).broughtUp 82).phase = .unspecified := by decide +kernel

/-! ## Parameters and pins -/

/-- Rules R55, R56, R6: bytes, fields and signs. -/
theorem test_operands :
    hi8 0x1234 = 0x12 ∧ lo8 0x1234 = 0x34 ∧ joinBytes 0x01 0x3F = 319 ∧ colorRed 0xF800 = 31 ∧ colorGreen 0x07E0 = 63 ∧
    colorBlue 0x001F = 31 ∧ sign (-3) = -1 ∧ sign 0 = 0 ∧ sign 7 = 1 := by decide +kernel

/-- Rules R16, R121: the numberings. -/
theorem test_codes :
    [Lifecycle.uninitialized, .resetting, .runningInitScript, .awakeReady].map Lifecycle.code = [0, 1, 2, 3] ∧
    [Status.ok, .outOfBounds].map Status.code = [0, 1] := by decide

/-! ## Witnesses: the hypotheses of the statements can be met -/

theorem test_meets_ConfigureClaimsPins : cfgState.cfg = true ∧ State.reset.cfg = false := by decide

theorem test_meets_ConfigureIdleLevelsAreParameters : State.reset.cfg = false := rfl

theorem test_meets_XferSendsOneByte : State.reset.cfg = false ∧ cfgState.cfg = true := by decide

theorem test_meets_TransferHoldsStrobeForParameter : cfgState.cfg = true := rfl

theorem test_meets_CommandIsTransferWithRsLow : cfgState.cfg = true := rfl

theorem test_meets_DataIsTransferWithRsHigh : cfgState.cfg = true := rfl

theorem test_meets_DataBytesSendsEachInOrder : State.reset.cfg = false ∧ readyState.cfg = true := by decide

theorem test_meets_ResetPulsesThePin : State.reset.cfg = false ∧ readyState.cfg = true := by decide

theorem test_meets_ResetTransitionsOfRst :
    AllComplete [(.reset, cfgState), (.reset, { cfgState with latches := { cfgState.latches with rst := .low } })] ∧
    cfgState.latches.rst = .high ∧ ({ cfgState.latches with rst := .low } : Latches).rst = .low :=
  ⟨allComplete_of (by decide +kernel), rfl, rfl⟩

theorem test_meets_InitRunsTheScript :
    State.reset.cfg = false ∧ (cfgState.cfg = true ∧ cfgState.lc ≠ .runningInitScript) ∧
    (runningState.cfg = true ∧ runningState.lc = .runningInitScript) := by decide

theorem test_meets_InitWordSequence : ∃ t, exec .init runningState = .next t := ⟨_, rfl⟩

/-- The largest window, the smallest, and the nearest that are none. -/
theorem test_meets_SetWindowSendsElevenWords :
    State.reset.cfg = false ∧ (cfgState.cfg = true ∧ cfgState.lc ≠ .awakeReady) ∧ Spec.Ready readyState ∧
    ((0 : U16).toNat ≤ (239 : U16).toNat ∧ (239 : U16).toNat < 240 ∧ (0 : U16).toNat ≤ (319 : U16).toNat ∧
      (319 : U16).toNat < 320) ∧
    ((239 : U16).toNat ≤ (239 : U16).toNat ∧ (239 : U16).toNat < 240 ∧ (319 : U16).toNat ≤ (319 : U16).toNat ∧
      (319 : U16).toNat < 320) ∧
    ¬((0 : U16).toNat ≤ (240 : U16).toNat ∧ (240 : U16).toNat < 240 ∧ (0 : U16).toNat ≤ (319 : U16).toNat ∧
      (319 : U16).toNat < 320) ∧
    ¬((0 : U16).toNat ≤ (239 : U16).toNat ∧ (239 : U16).toNat < 240 ∧ (0 : U16).toNat ≤ (320 : U16).toNat ∧
      (320 : U16).toNat < 320) := by decide

/-- The far corner, and the nearest points outside. -/
theorem test_meets_PixelDrawsOneCell :
    State.reset.cfg = false ∧ (cfgState.cfg = true ∧ cfgState.lc ≠ .awakeReady) ∧ Spec.Ready readyState ∧
    Spec.InFrame (239 : U16).toNat (319 : U16).toNat ∧ ¬Spec.InFrame (240 : U16).toNat (319 : U16).toNat ∧
    ¬Spec.InFrame (239 : U16).toNat (320 : U16).toNat := by decide

/-- Each case of a line: out of frame, vertical, horizontal, shallow, diagonal. -/
theorem test_meets_LineDrawsItsTouchList :
    State.reset.cfg = false ∧ (cfgState.cfg = true ∧ cfgState.lc ≠ .awakeReady) ∧ Spec.Ready readyState ∧
    ¬(Spec.InFrame 0 0 ∧ Spec.InFrame 240 0) ∧ (Spec.InFrame 239 0 ∧ Spec.InFrame 239 319) ∧
    (Spec.InFrame 0 319 ∧ Spec.InFrame 239 319 ∧ (0 : Nat) ≠ 239) ∧
    (|((239 : Nat) : Int) - (0 : Nat)| > |((238 : Nat) : Int) - (0 : Nat)|) ∧
    ¬(|((239 : Nat) : Int) - (0 : Nat)| > |((239 : Nat) : Int) - (0 : Nat)|) := by decide

theorem test_meets_StraightRunsEitherWay :
    Spec.Ready readyState ∧ Spec.InFrame (5 : U16).toNat (10 : U16).toNat ∧ Spec.InFrame (5 : U16).toNat (319 : U16).toNat ∧
    Spec.InFrame (239 : U16).toNat (10 : U16).toNat ∧ (5 : U16) ≠ 239 := by decide

/-- The diagonal of vector V35: the boundary of steepness. -/
theorem test_meets_SteepLineGap :
    Spec.Ready readyState ∧ Spec.InFrame (0 : U16).toNat (0 : U16).toNat ∧ Spec.InFrame (239 : U16).toNat (239 : U16).toNat ∧
    (0 : U16) ≠ 239 ∧
    |((239 : U16).toNat : Int) - (0 : U16).toNat| ≥ |((239 : U16).toNat : Int) - (0 : U16).toNat| := by decide

/-- A shallow line, a steep one, and the two values of the parameter. -/
theorem test_meets_GeneralLineStaysInItsBox :
    (0 : Nat) ≠ 239 ∧ (0 : Nat) ≠ 238 ∧ |((239 : Nat) : Int) - (0 : Nat)| > |((238 : Nat) : Int) - (0 : Nat)| ∧
    ¬(|((239 : Nat) : Int) - (0 : Nat)| > |((239 : Nat) : Int) - (0 : Nat)| ∨ hardware.lineSteep = .corrected) ∧
    ({ hardware with lineSteep := .corrected } : Config).lineSteep = .corrected :=
  ⟨by decide, by decide, by decide, by decide, rfl⟩

/-- The first line of vector V36. -/
theorem test_generalLine_points : Spec.GeneralLine 0 0 2 1 [(0, 0), (1, 0), (2, 1)] := by
  show Spec.Plots 2 1 1 1 2 1 0 0 1 _
  exact .more 0 0 1 _ (by decide) (.more 1 0 0 _ (by decide) (.last 1))

/-- The boundary of steepness, in both directions. -/
theorem test_meets_ShallowLineOnePixelPerColumn :
    (0 : Nat) ≠ 238 ∧ |((239 : Nat) : Int) - (0 : Nat)| > |((238 : Nat) : Int) - (0 : Nat)| ∧
    |((0 : Nat) : Int) - (239 : Nat)| > |((238 : Nat) : Int) - (0 : Nat)| := by decide

theorem test_meets_RectDrawsItsLines :
    State.reset.cfg = false ∧ (cfgState.cfg = true ∧ cfgState.lc ≠ .awakeReady) ∧ Spec.Ready readyState := by decide

theorem test_meets_RectInFrameCost :
    (239 : U16).toNat + (0 : U16).toNat < 240 ∧ (319 : U16).toNat + (0 : U16).toNat < 320 ∧
    AllComplete [(.rect 239 319 0 0 true, readyState), (.rect 239 319 0 0 false, readyState)] :=
  ⟨by decide, by decide, allComplete_of (by decide +kernel)⟩

theorem test_meets_FillBeyondRightEdgeOnlyReports :
    (239 : U16).toNat + (1 : U16).toNat ≥ 240 ∧ ∃ t, exec (.rect 239 0 1 0 true) readyState = .next t :=
  ⟨by decide, ⟨_, rfl⟩⟩

theorem test_meets_OutOfBoundsOnlyReports :
    Spec.Ready readyState ∧ (240 : U16).toNat ≥ 240 ∧ (320 : U16).toNat ≥ 320 ∧
    ∃ t, exec (.rect 240 320 1 0 false) readyState = .next t := ⟨by decide, by decide, by decide, ⟨_, rfl⟩⟩

theorem test_meets_ContractViolationsRefused :
    (Spec.isOperation .reset = true ∧ Instr.reset ≠ .configure ∧ State.reset.cfg = false) ∧ cfgState.cfg = true ∧ cfgState.lc ≠ .runningInitScript ∧
    cfgState.lc ≠ .awakeReady ∧ Spec.Ready readyState ∧ (240 : U16).toNat ≥ 240 ∧ (6 : U16).toNat > (5 : U16).toNat ∧
    (320 : U16).toNat ≥ 320 ∧
    ({ readyState with pending := [.overlapping 0 0] } : State).pending = .overlapping 0 0 :: [] := by decide

theorem test_meets_TotalOnPreconditions :
    Spec.isOperation (.pixel 240 0 0) = true ∧ Spec.precondition readyState (.pixel 240 0 0) ∧
    ¬Spec.precondition cfgState (.pixel 240 0 0) := ⟨rfl, ⟨rfl, rfl⟩, fun h => by cases h.2⟩

theorem test_meets_PowerUpAcceptsOnlyConfigure : Spec.isOperation .configure = true ∧ Spec.isOperation .reset = true := by
  decide

theorem test_meets_WireWordsAreBusWrites : cfgState.cfg = true := rfl

theorem test_meets_OnlyTheirWritersWrite :
    AllComplete [(.configure, State.reset), (.reset, cfgState), (.init, runningState), (.pixel 0 0 0, readyState),
      (.xfer 0 false, cfgState)] := allComplete_of (by decide +kernel)

theorem test_meets_LifecycleEdges :
    ∀ s ∈ [cfgState, { readyState with pending := [.invoke .reset] }, { runningState with pending := [.invoke .init] }],
      ∃ t, step s = .next t := by
  have h : [cfgState, { readyState with pending := [.invoke .reset] },
      { runningState with pending := [.invoke .init] }].all (fun s => completes (step s)) = true := by decide +kernel
  exact fun s hs => next_of_completes (List.all_eq_true.1 h s hs)

theorem test_meets_BringUpReachesReady : State.reset.cfg = false := rfl

/-- Every operation, the draw operations in frame and out of it. -/
theorem test_meets_MinimumDurations :
    AllComplete [(.configure, State.reset), (.xfer 0 false, cfgState), (.cmd 0, cfgState), (.data 0, cfgState),
      (.dataBytes [1, 2], cfgState), (.reset, cfgState), (.init, runningState), (.setWin 0 0 0 0, readyState),
      (.pixel 239 319 0, readyState), (.pixel 240 319 0, readyState), (.line 0 0 2 1 0, readyState),
      (.line 0 0 240 0 0, readyState), (.rect 239 319 0 0 true, readyState), (.rect 239 319 1 0 false, readyState)] ∧
    ((239 : U16).toNat + (0 : U16).toNat < 240 ∧ (319 : U16).toNat + (0 : U16).toNat < 320) :=
  ⟨allComplete_of (by decide +kernel), by decide⟩

/-- Two different states that the block cannot tell apart. -/
theorem test_meets_GhostStateIsNeverRead :
    Spec.SameBlock readyState { readyState with report := [.outOfBounds (.pixel 240 0)] } ∧
    readyState ≠ { readyState with report := [.outOfBounds (.pixel 240 0)] } :=
  ⟨⟨rfl, rfl, rfl, rfl, rfl⟩, by decide⟩

theorem test_meets_NextRunsAsIfNotRequested :
    (¬Spec.InFrame (240 : U16).toNat (0 : U16).toNat ∧ ∃ t, exec (.pixel 240 0 0) readyState = .next t) ∧
    (¬(Spec.InFrame (0 : U16).toNat (0 : U16).toNat ∧ Spec.InFrame (0 : U16).toNat (320 : U16).toNat) ∧
      ∃ t, exec (.line 0 0 0 320 0) readyState = .next t) := ⟨⟨by decide, ⟨_, rfl⟩⟩, ⟨by decide, ⟨_, rfl⟩⟩⟩

theorem test_meets_LowColorByteIsNeverSent : (0x1200 : U16).toNat / 256 = (0x12FF : U16).toNat / 256 := by decide

/-- The idle levels hold at power-up and in a configured state, and both take a step. -/
theorem test_meets_StepKeepsIdleLevels :
    IdleInv { State.reset with pending := [.invoke .configure] } ∧
    (∃ t, step { State.reset with pending := [.invoke .configure] } = .next t) ∧
    IdleInv { readyState with pending := [.invoke (.cmd 0)] } ∧
    (∃ t, step { readyState with pending := [.invoke (.cmd 0)] } = .next t) :=
  ⟨⟨rfl, rfl, rfl, rfl, rfl⟩, ⟨_, rfl⟩, by simp [IdleInv, readyState, cfgState], ⟨_, rfl⟩⟩

/-- A configured state whose trace is its history: rule R70 seen by the observer, then `readyState`'s last word. -/
def historyState : State :=
  { readyState with
    trace := [.claim, .drive .rd true, .drive .wr true, .drive .rs true, .drive .cs true, .drive .rst true, .data 0x00,
      .drive .rs false, .drive .cs false, .data 0x29, .drive .wr false, .delay 1, .drive .wr true, .drive .cs true]
    pending := [.invoke (.pixel 240 0 0)] }

theorem test_meets_StepKeepsWaveform : WaveformInv historyState ∧ ∃ t, step historyState = .next t :=
  ⟨by simp [WaveformInv, historyState, readyState, cfgState, replay, Event.apply, Latches.set, Level.ofBit], ⟨_, rfl⟩⟩

theorem test_meets_StepKeepsReports : ReportInv historyState ∧ ∃ t, step historyState = .next t := ⟨rfl, ⟨_, rfl⟩⟩

theorem test_meets_StepKeepsTransferOrder :
    IdleInv historyState ∧ WaveformInv historyState ∧ TraceOrdered historyState ∧ ∃ t, step historyState = .next t :=
  ⟨by simp [IdleInv, historyState, readyState, cfgState], test_meets_StepKeepsWaveform.1,
    ⟨by simp [historyState, transferOrdered, eventOrdered, Event.apply, Latches.set, Level.ofBit, wordOnPins],
      by simp [historyState, strobesHeld, hardware]⟩, ⟨_, rfl⟩⟩

theorem test_meets_StepKeepsLastWord :
    IdleInv historyState ∧ WaveformInv historyState ∧ LastWordInv historyState ∧ ∃ t, step historyState = .next t :=
  ⟨test_meets_StepKeepsTransferOrder.1, test_meets_StepKeepsWaveform.1,
    by simp [LastWordInv, words, wordsFrom, historyState, readyState, cfgState, Event.apply, Latches.set, Level.ofBit,
      wordOnPins], ⟨_, rfl⟩⟩

/-- A stream whose first half pixel has come, in a window of one cell. -/
def halfState : State :=
  { readyState with receiver := { quietReceiver with phase := .stream 0 (some 0x12) }, pending := [.wire 0x1FF] }

theorem test_meets_StepKeepsReceiver : ReceiverInv halfState ∧ ∃ t, step halfState = .next t :=
  ⟨by simp [ReceiverInv, Memory.wf, phaseOk, halfState, readyState, cfgState, quietReceiver, columnsValid, rowsValid,
    windowCells, windowColumns], ⟨_, rfl⟩⟩

/-- The largest window. -/
theorem test_meets_WindowSetPlacesWritePosition :
    Spec.precondition readyState (.setWin 0 0 239 319) ∧ readyState.latches.rst = .high ∧
    awaitsCommand readyState.receiver = true := by simp [Spec.precondition, Spec.Ready, readyState, cfgState, quietReceiver, awaitsCommand]

theorem test_meets_PixelWritesItsCell :
    Spec.Ready readyState ∧ Spec.InFrame (239 : U16).toNat (319 : U16).toNat ∧ readyState.latches.rst = .high ∧
    awaitsCommand readyState.receiver = true ∧ Spec.inCell 239 319 153598 ∧ ¬Spec.inCell 239 319 153597 := by
  simp [Spec.Ready, Spec.InFrame, readyState, cfgState, quietReceiver, awaitsCommand, Spec.inCell, Spec.addr]

/-- A fill whose last row is outside the frame. -/
theorem test_meets_FillWritesItsBlock :
    Spec.Ready readyState ∧ (238 : U16).toNat + (1 : U16).toNat < 240 ∧ readyState.latches.rst = .high ∧
    awaitsCommand readyState.receiver = true ∧ (319 : U16).toNat + 0 < 320 ∧ ¬((319 : U16).toNat + 1 < 320) := by decide

/-- Both kinds of rectangle, partly out of the frame. -/
theorem test_meets_RectWritesItsCells :
    Spec.Ready readyState ∧ readyState.latches.rst = .high ∧ awaitsCommand readyState.receiver = true ∧
    Spec.rectCells 238 319 1 true = [(238, 319), (239, 319)] ∧ Spec.rectCells 238 319 1 false = [(238, 319), (239, 319)] ∧
    ¬Spec.inCell 238 319 0 := by
  refine ⟨by decide, by decide, by decide, by decide +kernel, by decide +kernel, ?_⟩
  simp [Spec.inCell, Spec.addr]

theorem test_meets_LineWritesItsTouchList :
    Spec.Ready readyState ∧ Spec.InFrame (0 : U16).toNat (0 : U16).toNat ∧ Spec.InFrame (2 : U16).toNat (1 : U16).toNat ∧
    readyState.latches.rst = .high ∧ awaitsCommand readyState.receiver = true ∧
    Spec.Touches 0 0 2 1 [(0, 0), (1, 0), (2, 1)] := by
  refine ⟨by decide, by decide, by decide, rfl, rfl, ?_⟩
  simp only [Spec.Touches]
  exact ⟨_, test_generalLine_points, rfl⟩

/-- A window of two cells, filled whole. -/
theorem test_meets_StreamFillsWindowRowMajor :
    Spec.precondition readyState (.setWin 238 319 239 319) ∧ readyState.latches.rst = .high ∧
    awaitsCommand readyState.receiver = true ∧
    [((1 : Byte), (2 : Byte)), (3, 4)].length ≤
      ((239 : U16).toNat - (238 : U16).toNat + 1) * ((319 : U16).toNat - (319 : U16).toNat + 1) := by
  simp [Spec.precondition, Spec.Ready, readyState, cfgState, quietReceiver, awaitsCommand]

/-- A command, a data word that ends a pixel, and one that begins a pixel. -/
theorem test_meets_TransferMemoryFrame :
    AllComplete [(.xfer 0x2A false, readyState), (.xfer 0xFF true, halfState),
      (.xfer 0x12 true, { readyState with receiver := { quietReceiver with phase := .stream 0 none } })] ∧
    (quietReceiver.take false 0x2A).phase = .colSet [] ∧ halfState.receiver.phase = .stream 0 (some 0x12) ∧
    (halfState.receiver.take true 0xFF).phase = .stream 1 none ∧
    (({ quietReceiver with phase := .stream 0 none } : Receiver).take true 0x12).phase = .stream 0 (some 0x12) :=
  ⟨allComplete_of (by decide +kernel), by decide +kernel, rfl, by decide +kernel, by decide +kernel⟩

theorem test_meets_FrameMemoryUnspecifiedAfterReset :
    AllComplete [(.configure, State.reset), (.reset, readyState), (.init, runningState)] ∧
    look (exec .reset readyState) (fun t => (t.receiver.phase, t.latches.rst)) = some (.sinceReset 0, .high) ∧
    ¬(runningState.receiver.phase = .sinceReset 0) :=
  ⟨allComplete_of (by decide +kernel), by decide +kernel, by decide⟩

/-- No word is strobed, some are, and words of which the receiver takes none. -/
theorem test_meets_EveryStrobeIsCounted :
    AllComplete [(.configure, State.reset), (.reset, cfgState), (.init, runningState), (.line 0 0 2 1 0, readyState),
      (.cmd 0, { cfgState with receiver := Receiver.powerUp })] := allComplete_of (by decide +kernel)

/-- Each situation of the statement, at the edge of its range where it has one: the last cell of a window of one, ranges
that are reversed by one and that pass the frame by one. -/
theorem test_meets_UnspecifiedSituations :
    Receiver.powerUp.phase = .unspecified ∧ quietReceiver.phase = .idle ∧ awaitsCommand quietReceiver = true ∧
    halfState.receiver.phase = .stream 0 (some 0x12) ∧ (0x2D : Byte) ≠ 0x2A ∧ (0x2D : Byte) ≠ 0x2B ∧
    (0x2D : Byte) ≠ 0x2C ∧ windowCells quietReceiver.window ≤ 1 ∧
    ((1 : U16).toNat > (0 : U16).toNat ∧ (240 : U16).toNat ≥ 240 ∧ (320 : U16).toNat ≥ 320) ∧
    ((0 : Byte).toNat * 256 + (1 : Byte).toNat > (0 : Byte).toNat * 256 + (0 : Byte).toNat ∧
      (0 : Byte).toNat * 256 + (240 : Byte).toNat ≥ 240 ∧ (1 : Byte).toNat * 256 + (64 : Byte).toNat ≥ 320) ∧
    (quietReceiver.accept .low true 0).phase = .unspecified := by
  decide +kernel

/-- The ranges next to those: the last that are taken. -/
theorem test_receiver_ranges :
    (taken { quietReceiver with phase := .colSet [0, 239, 0] } [(true, 239)]).phase = .idle ∧
    (taken { quietReceiver with phase := .colSet [0, 239, 0] } [(true, 240)]).phase = .unspecified ∧
    (taken { quietReceiver with phase := .rowSet [1, 63, 1] } [(true, 63)]).phase = .idle ∧
    (taken { quietReceiver with phase := .rowSet [1, 63, 1] } [(true, 62)]).phase = .unspecified := by decide +kernel

theorem test_meets_StepRunsDecodedRequest :
    cfgState.pending = [] ∧ halfState.pending = .wire 0x1FF :: [] ∧ decodeRequest (.wire 0x1FF) = .ok (.dataWord 0xFF) :=
  ⟨rfl, rfl, rfl⟩

theorem test_meets_DecodeOfEncode :
    ((Instr.rect 0xFFFF 0 1 2 true).wellFormed = true ∧ (Instr.rect 0xFFFF 0 1 2 true).isPseudo = false) ∧
    ((Instr.reservedOp 8).wellFormed = true ∧ (Instr.reservedOp 8).isPseudo = false) := by decide

/-- A reserved and a used `OP` next to each other. -/
theorem test_meets_ReservedOpsRefused :
    (0x800000000000000000000000 : Frame).op.toNat ≥ 8 ∧ (0x7FFFFFFFFFFFFFFFFFFFFFFF : Frame).op.toNat < 8 ∧
    (readyState.withFetchWord 96 0x800000000000000000000000).pending = .frame 0x800000000000000000000000 :: [] := by
  decide +kernel

theorem test_meets_PseudoOperationsExpand : cfgState.cfg = true ∧ cfgState.pending = [] := ⟨rfl, rfl⟩

end Sys2Proof.Tests
end

section
/-! Frames whose `OP` names no operation (rule R61): what the decoder makes of a frame by its `OP`, and what a step does
with the request it takes. -/

namespace Sys2Proof

/-- An `OP` of `0x8 .. 0xF` is on none of the decoder's numbered rows (rule R61). -/
theorem decodeFrame_of_op_ge {f : Frame} (h : 8 ≤ f.op.toNat) : decodeFrame f = .reservedOp f.op := by
  unfold decodeFrame
  split
  case h_9 => rfl
  all_goals omega

/-- Below 8 every `OP` has a row of the decoder, and each of those rows is one of R58's operations. -/
theorem isOperation_decodeFrame {f : Frame} (h : f.op.toNat < 8) : Spec.isOperation (decodeFrame f) = true := by
  unfold decodeFrame
  generalize f.op.toNat = op at h ⊢
  interval_cases op <;> rfl

namespace Machine

/-- A request that decodes is performed on the state from which it has been taken (rules R7, R57). -/
theorem step_of_decodeRequest {s : State} {r : Request} {rest : List Request} {i : Instr}
    (hp : s.pending = r :: rest) (hd : decodeRequest r = .ok i) : step s = exec i { s with pending := rest } := by
  simp only [step, hp, hd]

@[simp] theorem exec_reservedOp (op : BitVec 4) (s : State) : exec (.reservedOp op) s = .refused .reservedOp := by
  rw [exec_eq, refusalOf]

end Machine

open Machine

/-- Settles O56: a frame decodes by its `OP` alone to the reserved row, which every state refuses, or to an operation. -/
theorem reservedOpsRefused : Obligations.ReservedOpsRefused := by
  intro f s rest hp
  refine ⟨fun hop => ?_, isOperation_decodeFrame⟩
  have hd : decodeRequest (.frame f) = .ok (.reservedOp f.op) := congrArg Except.ok (decodeFrame_of_op_ge hop)
  rw [step_of_decodeRequest hp hd, exec_reservedOp]

end Sys2Proof
end

section
/-! The Bus Driver's two operations under any configuration (rules R70, R71): what each answers, configured and not. -/

namespace Sys2Proof

namespace Machine

variable {c : Config} {s : State}

theorem configure_of_cfg (h : s.cfg = true) : configure c s = .refused .alreadyConfigured := if_pos h

theorem configure_of_not (h : s.cfg = false) :
    configure c s = .next { configureBody c s with returns := (configureBody c s).returns ++ [.ok] } := by
  rw [configure, h]; rfl

theorem transfer_of_cfg {d : Bool} {b : Byte} (h : s.cfg = true) :
    transfer c d b s = .next { busWrite c d b s with returns := (busWrite c d b s).returns ++ [.ok] } :=
  whenConfigured_of_cfg h _

theorem transfer_of_not {d : Bool} {b : Byte} (h : s.cfg = false) : transfer c d b s = .refused .notConfigured :=
  whenConfigured_of_not h _

/-- `CONFIGURE` is `configure` under this hardware's parameters (rules R5, R70). -/
theorem exec_configure (s : State) : exec .configure s = configure hardware s := rfl

/-- `XFER` is a bus write under this hardware's parameters (rules R5, R71). -/
theorem exec_xfer (b : Byte) (d : Bool) (s : State) : exec (.xfer b d) s = transfer hardware d b s := rfl

/-- The level of a bit as the statements write it. -/
theorem Level.ofBit_eq_ite (b : Bool) : Level.ofBit b = if b then .high else .low := by cases b <;> rfl

end Machine

open Machine

/-- Settles O2: unconfigured, the next state is the body's, whose latches and events `configureBody_eq` gives. -/
theorem configureClaimsPins : Obligations.ConfigureClaimsPins := by
  intro s
  rw [exec_configure]
  refine ⟨configure_of_cfg, fun hcfg => ⟨_, configure_of_not hcfg, ?_⟩⟩
  rw [configureBody_eq]
  exact ⟨rfl, rfl, rfl, rfl, rfl, rfl, rfl⟩

/-- Settles O4: configured, the next state is the bus write's, whose latches and events `busWrite_eq` gives. -/
theorem xferSendsOneByte : Obligations.XferSendsOneByte := by
  intro s byte isData
  rw [exec_xfer]
  refine ⟨transfer_of_not, fun hcfg => ⟨_, transfer_of_cfg hcfg, ?_⟩⟩
  rw [busWrite_eq, ← Level.ofBit_eq_ite]
  exact ⟨rfl, rfl, rfl, rfl, rfl, rfl, rfl⟩

end Sys2Proof
end

section
/-! The Command Layer's three operations (rules R80 to R82): bus writes in a row, read as the words an operation sent. -/

namespace Sys2Proof

namespace Machine

variable {c : Config} {s : State}

/-- The latches after bus writes in a row are those of the last word, or the old ones when there is none (rule R72). -/
theorem latchesAfterAll_eq_spec (ls : Latches) (ws : List (Bool × Byte)) :
    latchesAfterAll ls ws = Spec.latchesAfter ls ws := by
  rcases ws.eq_nil_or_concat' with rfl | ⟨vs, w, rfl⟩
  · rfl
  · rw [latchesAfterAll_concat, Spec.latchesAfter, List.getLast?_concat, latchesAfter, Level.ofBit_eq_ite]

/-- The events of one bus write are the spec's `T(w)` under the strobe width of the configuration (rule R71). -/
theorem wordEvents_eq_transferEvents (c : Config) : wordEvents c = Spec.transferEvents c.tStrobeUs := rfl

/-- Bus writes in a row that return `Ok` have sent their words, and nothing else (rules R31, R72). -/
theorem sent_busWrites (c : Config) (ws : List (Bool × Byte)) (s : State) :
    Spec.Sent c.tStrobeUs ws s { busWrites c ws s with returns := (busWrites c ws s).returns ++ [.ok] } := by
  rw [busWrites_eq, latchesAfterAll_eq_spec, wordEvents_eq_transferEvents]
  exact ⟨rfl, rfl, rfl, rfl, rfl, rfl, rfl⟩

/-- A transfer is bus writes in a row of the one word. -/
theorem transfer_sends {d : Bool} {b : Byte} (h : s.cfg = true) :
    ∃ t, transfer c d b s = .next t ∧ Spec.Sent c.tStrobeUs [(d, b)] s t :=
  ⟨_, transfer_of_cfg h, sent_busWrites c [(d, b)] s⟩

theorem dataBytes_of_not {bytes : List Byte} (h : s.cfg = false) : dataBytes c bytes s = .refused .notConfigured :=
  whenConfigured_of_not h _

theorem dataBytes_sends {bytes : List Byte} (h : s.cfg = true) :
    ∃ t, dataBytes c bytes s = .next t ∧ Spec.Sent c.tStrobeUs (bytes.map dataWord) s t :=
  ⟨_, whenConfigured_of_cfg h _, sent_busWrites c (bytes.map dataWord) s⟩

/-- `CMD` is a transfer with `RS` low under this hardware's parameters (rules R5, R80). -/
theorem exec_cmd (opcode : Byte) (s : State) : exec (.cmd opcode) s = transfer hardware false opcode s := rfl

/-- `DATA` is a transfer with `RS` high under this hardware's parameters (rules R5, R81). -/
theorem exec_data (b : Byte) (s : State) : exec (.data b) s = transfer hardware true b s := rfl

/-- `DATABYTES` is `dataBytes` under this hardware's parameters (rules R5, R82). -/
theorem exec_dataBytes (bytes : List Byte) (s : State) : exec (.dataBytes bytes) s = dataBytes hardware bytes s := rfl

end Machine

open Machine

/-- Settles O8: configured, the body is bus writes in a row of the bytes' data words, whose latches are the last word's. -/
theorem dataBytesSendsEachInOrder : Obligations.DataBytesSendsEachInOrder := by
  intro s bytes
  rw [exec_dataBytes]
  exact ⟨dataBytes_of_not, dataBytes_sends⟩

/-- Settles O6: both sides are the one transfer with `RS` low, which sends its word when configured. -/
theorem commandIsTransferWithRsLow : Obligations.CommandIsTransferWithRsLow := by
  intro s opcode
  rw [exec_cmd, exec_xfer]
  exact ⟨rfl, transfer_sends⟩

/-- Settles O7: both sides are the one transfer with `RS` high, which sends its word when configured. -/
theorem dataIsTransferWithRsHigh : Obligations.DataIsTransferWithRsHigh := by
  intro s byte
  rw [exec_data, exec_xfer]
  exact ⟨rfl, transfer_sends⟩

end Sys2Proof
end

section
/-! The Controller Sequencer's three operations (rules R85, R87, R91): the literal script read as the spec's rows of wire
words, the window-set's bytes as the spec's, and what each operation answers in every case of its preconditions. -/

namespace Sys2Proof

/-- The spec's reading of a wire word undoes `{rs, b}` (rule R50). -/
@[simp] theorem Spec.wordOf_build (rs : Bool) (b : Byte) : Spec.wordOf (WireWord.build rs b) = (rs, b) := by
  have hb : b.toNat < 256 := b.isLt
  have hw : (WireWord.build rs b).toNat = rs.toNat * 256 + b.toNat := by
    rw [WireWord.build, BitVec.toNat_append, ← Nat.shiftLeft_add_eq_or_of_lt hb, Nat.shiftLeft_eq,
      BitVec.toNat_ofBool]
  ext1
  · cases rs <;> simp [Spec.wordOf, hw] <;> omega
  · apply BitVec.eq_of_toNat_eq
    simp [Spec.wordOf, hw, Nat.mod_eq_of_lt hb]

namespace Machine

variable {c : Config} {s : State}

/-! ## RESET (rule R85) -/

/-- `RESET` has no precondition but `cfg` (rule R85). -/
theorem exec_reset_of_cfg (h : s.cfg = true) :
    exec .reset s = .next { resetBody s with returns := (resetBody s).returns ++ [.ok] } :=
  whenConfigured_of_cfg h _

theorem exec_reset_of_not (h : s.cfg = false) : exec .reset s = .refused .notConfigured :=
  whenConfigured_of_not h _

/-! ## INIT (rules R87, R88) -/

/-- A script entry as a row of rule R89: its wire words, then the wait. -/
def scriptRow (e : ScriptEntry) : List WireWord × Nat :=
  ((entryWords e).map fun w => WireWord.build w.1 w.2, e.waitUs)

/-- The entries of rule R88 are the rows of rule R89, byte for byte. -/
theorem initScript_map_scriptRow : initScript.map scriptRow = Spec.initRows := by decide

/-- On this hardware the events of an entry are those of its row. -/
theorem initRowEvents_scriptRow (e : ScriptEntry) :
    Spec.initRowEvents (scriptRow e) = entryEvents hardware e := by
  have hwords : (scriptRow e).1.map Spec.wordOf = entryWords e := by
    simp [scriptRow, Function.comp_def]
  have hwait : (if (scriptRow e).2 = 0 then [] else [Event.delay (scriptRow e).2]) =
      if e.waitUs > 0 then [.delay e.waitUs] else [] := by
    cases h : e.waitUs <;> simp [scriptRow, h]
  rw [Spec.initRowEvents, hwords, hwait]
  rfl

/-- On this hardware the script's events are those of the rows of rule R89. -/
theorem initScript_events : initScript.flatMap (entryEvents hardware) = Spec.initRows.flatMap Spec.initRowEvents := by
  simp only [← initScript_map_scriptRow, List.flatMap_map, initRowEvents_scriptRow]

/-- `INIT` is `initialise` under this hardware's parameters (rules R5, R87). -/
theorem exec_init (s : State) : exec .init s = initialise hardware s := rfl

theorem initialise_of_not (h : s.cfg = false) : initialise c s = .refused .notConfigured :=
  whenConfigured_of_not h _

theorem initialise_of_lc_ne (hcfg : s.cfg = true) (hlc : s.lc ≠ .runningInitScript) :
    initialise c s = .refused .wrongLifecycle := by
  rw [initialise, whenConfigured_of_cfg hcfg, whenLifecycle_of_ne hlc]

theorem initialise_of_running (hcfg : s.cfg = true) (hlc : s.lc = .runningInitScript) :
    initialise c s = .next { initBody c s with returns := (initBody c s).returns ++ [.ok] } := by
  rw [initialise, whenConfigured_of_cfg hcfg, whenLifecycle_of_eq hlc, finish]

/-! ## SETWIN (rule R91) -/

theorem hi8_eq_spec (v : U16) : hi8 v = Spec.hi v.toNat := by
  have hv : v.toNat < 65536 := v.isLt
  apply BitVec.eq_of_toNat_eq
  rw [hi8_toNat, Spec.hi, BitVec.toNat_ofNat]
  omega

theorem lo8_eq_spec (v : U16) : lo8 v = Spec.lo v.toNat := by
  apply BitVec.eq_of_toNat_eq
  rw [lo8_toNat, Spec.lo, BitVec.toNat_ofNat]
  omega

/-- The eleven words of a window-set are the spec's `W(x1,y1,x2,y2)`. -/
theorem windowWords_eq_spec (x1 y1 x2 y2 : U16) :
    windowWords x1 y1 x2 y2 = Spec.windowWords x1.toNat y1.toNat x2.toNat y2.toNat := by
  simp only [windowWords, Spec.windowWords, cmdWord, dataWord, hi8_eq_spec, lo8_eq_spec]

variable {x1 y1 x2 y2 : U16}

/-- `SETWIN` is `setWindow` under this hardware's parameters (rules R5, R91). -/
theorem exec_setWin (x1 y1 x2 y2 : U16) (s : State) :
    exec (.setWin x1 y1 x2 y2) s = setWindow hardware x1 y1 x2 y2 s := rfl

theorem setWindow_of_not (h : s.cfg = false) : setWindow c x1 y1 x2 y2 s = .refused .notConfigured :=
  whenConfigured_of_not h _

theorem setWindow_of_lc_ne (hcfg : s.cfg = true) (hlc : s.lc ≠ .awakeReady) :
    setWindow c x1 y1 x2 y2 s = .refused .wrongLifecycle := by
  rw [setWindow, whenConfigured_of_cfg hcfg, whenLifecycle_of_ne hlc]

/-- A ready block judges a window-set by its operands alone (rule R91). -/
theorem setWindow_of_ready (h : Spec.Ready s) :
    setWindow c x1 y1 x2 y2 s =
      if isAddressWindow x1.toNat y1.toNat x2.toNat y2.toNat then
        finish (busWrites c (windowWords x1 y1 x2 y2) s, .ok)
      else .refused .badWindow := by
  obtain ⟨hcfg, hlc⟩ := h
  rw [setWindow, whenConfigured_of_cfg hcfg, whenLifecycle_of_eq hlc]

theorem setWindow_of_not_window (h : Spec.Ready s)
    (hw : ¬(x1.toNat ≤ x2.toNat ∧ x2.toNat < 240 ∧ y1.toNat ≤ y2.toNat ∧ y2.toNat < 320)) :
    setWindow c x1 y1 x2 y2 s = .refused .badWindow := by
  rw [setWindow_of_ready h, if_neg (mt isAddressWindow_iff.1 hw)]

theorem setWindow_sends (h : Spec.Ready s)
    (hw : x1.toNat ≤ x2.toNat ∧ x2.toNat < 240 ∧ y1.toNat ≤ y2.toNat ∧ y2.toNat < 320) :
    ∃ t, setWindow c x1 y1 x2 y2 s = .next t ∧
      Spec.Sent c.tStrobeUs (Spec.windowWords x1.toNat y1.toNat x2.toNat y2.toNat) s t := by
  rw [setWindow_of_ready h, if_pos (isAddressWindow_iff.2 hw), ← windowWords_eq_spec]
  exact ⟨_, rfl, sent_busWrites c _ s⟩

end Machine

open Machine

/-- Settles O11: when running the script, the next state is the body's, whose events are the spec's rows. -/
theorem initRunsTheScript : Obligations.InitRunsTheScript := by
  intro s
  rw [exec_init]
  refine ⟨initialise_of_not, initialise_of_lc_ne, fun hcfg hlc => ⟨_, initialise_of_running hcfg hlc, ?_⟩⟩
  rw [initBody_eq, initScript_events]
  exact ⟨rfl, rfl, rfl, rfl, rfl, rfl, rfl⟩

/-- Settles O13: ready, the AddressWindow check alone decides between the refusal and the eleven words. -/
theorem setWindowSendsElevenWords : Obligations.SetWindowSendsElevenWords := by
  intro s x1 y1 x2 y2
  rw [exec_setWin]
  exact ⟨setWindow_of_not, setWindow_of_lc_ne, setWindow_of_not_window, setWindow_sends⟩

/-- Settles O9: configured, the next state is the body's, whose latches and events `resetBody_eq` gives. -/
theorem resetPulsesThePin : Obligations.ResetPulsesThePin := by
  intro s
  refine ⟨exec_reset_of_not, fun hcfg => ⟨_, exec_reset_of_cfg hcfg, ?_⟩⟩
  rw [resetBody_eq]
  exact ⟨rfl, rfl, rfl, rfl, rfl, rfl, rfl⟩

end Sys2Proof
end

section
/-! The Rasterization Engine's drawing of pixels, straight runs and rectangles (rules R101, R105, R110 to R112): the
draw precondition, the model's pixels and straight runs read as the spec's, and a rectangle's lines one at a time. -/

namespace Sys2Proof

namespace Machine

variable {c : Config} {s : State} {x y x1 y1 x2 y2 : Nat} {color : U16}

/-! ## The draw precondition (rules R92, R124) -/

theorem whenReady_of_not {draw : State → State × Status} (h : s.cfg = false) :
    whenReady s draw = .refused .notConfigured :=
  whenConfigured_of_not h _

theorem whenReady_of_lc_ne {draw : State → State × Status} (hcfg : s.cfg = true) (hlc : s.lc ≠ .awakeReady) :
    whenReady s draw = .refused .wrongLifecycle := by
  rw [whenReady, whenConfigured_of_cfg hcfg, whenLifecycle_of_ne hlc]

theorem whenReady_of_ready {draw : State → State × Status} (h : Spec.Ready s) :
    whenReady s draw = finish (draw s) := by
  rw [whenReady, whenConfigured_of_cfg h.1, whenLifecycle_of_eq h.2]

/-- A ready drawing that comes to bus writes in a row has sent their words. -/
theorem whenReady_sends {draw : State → State × Status} {ws : List (Bool × Byte)} (h : Spec.Ready s)
    (hd : draw s = (busWrites c ws s, .ok)) :
    ∃ t, whenReady s draw = .next t ∧ Spec.Sent c.tStrobeUs ws s t := by
  rw [whenReady_of_ready h, hd]
  exact ⟨_, rfl, sent_busWrites c ws s⟩

/-- A report and the return of its status are the spec's reported state (rule R120). -/
theorem finish_raiseOutOfBounds (info : ReportInfo) (s : State) :
    finish (raiseOutOfBounds info s) = .next (Spec.reported info s) := rfl

/-! ## Pixels (rule R101) -/

/-- `PIXEL` is `pixel` under this hardware's parameters (rules R5, R101). -/
theorem exec_pixel (x y color : U16) (s : State) : exec (.pixel x y color) s = pixel hardware x y color s := rfl

/-- The window-set of an in-frame cell is the spec's: its coordinates fit the 16 bits of a wire operand. -/
theorem windowWords_cell (h : Spec.InFrame x y) :
    windowWords (BitVec.ofNat 16 x) (BitVec.ofNat 16 y) (BitVec.ofNat 16 x) (BitVec.ofNat 16 y) =
      Spec.windowWords x y x y := by
  have hx : (BitVec.ofNat 16 x).toNat = x := Nat.mod_eq_of_lt (by omega)
  have hy : (BitVec.ofNat 16 y).toNat = y := Nat.mod_eq_of_lt (by omega)
  rw [windowWords_eq_spec, hx, hy]

theorem pixelWords_of_reference (hc : c.pixelLowByte = .reference) (h : Spec.InFrame x y) :
    pixelWords c x y color = Spec.pixelWords color.toNat (x, y) := by
  simp only [pixelWords, Spec.pixelWords, windowWords_cell h, pixelLowByte, hc, dataWord, hi8_eq_spec]

theorem pixelWords_of_corrected (hc : c.pixelLowByte = .corrected) (h : Spec.InFrame x y) :
    pixelWords c x y color = Spec.pixelWordsCorrected color.toNat (x, y) := by
  simp only [pixelWords, Spec.pixelWordsCorrected, windowWords_cell h, pixelLowByte, hc, dataWord, hi8_eq_spec,
    lo8_eq_spec]

theorem pixel_of_outOfFrame {x y : U16} (h : Spec.Ready s) (hf : ¬Spec.InFrame x.toNat y.toNat) :
    pixel c x y color s = .next (Spec.reported (.pixel x.toNat y.toNat) s) := by
  rw [pixel, whenReady_of_ready h, drawPixel_of_outOfFrame (Bool.eq_false_iff.2 (mt inFrame_iff.1 hf)),
    finish_raiseOutOfBounds]

theorem pixel_sends {x y : U16} (h : Spec.Ready s) (hf : Spec.InFrame x.toNat y.toNat) :
    ∃ t, pixel c x y color s = .next t ∧ Spec.Sent c.tStrobeUs (pixelWords c x.toNat y.toNat color) s t :=
  whenReady_sends h (drawPixel_of_inFrame (inFrame_iff.2 hf) color s)

/-! ## Straight runs (rule R105) -/

theorem ascending_eq_map_range {a b : Nat} (h : a ≤ b) : ascending a b = (List.range (b - a + 1)).map (a + ·) := by
  rw [ascending, List.range'_eq_map_range, Nat.sub_add_comm h]

theorem verticalRun_eq_column (x y1 y2 : Nat) : verticalRun x y1 y2 = Spec.column x y1 y2 := by
  rw [verticalRun, ascending_eq_map_range min_le_max, List.map_map, Spec.column]
  rfl

theorem horizontalRun_eq_row (x1 x2 y : Nat) : horizontalRun x1 x2 y = Spec.row x1 x2 y := by
  rw [horizontalRun, ascending_eq_map_range min_le_max, List.map_map, Spec.row]
  rfl

/-- The spec's touch list of a line of which one coordinate is fixed (rule R105), as `Spec.rectLineWords` writes it. -/
def straightRun (x1 y1 x2 y2 : Nat) : List (Nat × Nat) :=
  if x1 = x2 then Spec.column x1 y1 y2 else Spec.row x1 x2 y1

theorem lineTouches_of_straight (h : x1 = x2 ∨ y1 = y2) : lineTouches c x1 y1 x2 y2 = straightRun x1 y1 x2 y2 := by
  unfold lineTouches straightRun
  split_ifs with hx hy
  · exact verticalRun_eq_column ..
  · exact horizontalRun_eq_row ..
  · exact absurd h (by simp [hx, hy])

/-- A straight run is the same whichever end point is given first. -/
theorem straightRun_comm (h : x1 = x2 ∨ y1 = y2) : straightRun x1 y1 x2 y2 = straightRun x2 y2 x1 y1 := by
  by_cases hx : x1 = x2
  · subst hx
    simp only [straightRun, Spec.column, if_true, max_comm, min_comm]
  · have hy : y1 = y2 := h.resolve_left hx
    simp only [straightRun, if_neg hx, if_neg (Ne.symm hx), Spec.row, hy, max_comm, min_comm]

/-- A straight run lies between its end points, so within the frame when they do. -/
theorem inFrame_of_mem_straightRun (h1 : Spec.InFrame x1 y1) (h2 : Spec.InFrame x2 y2) {p : Nat × Nat}
    (hp : p ∈ straightRun x1 y1 x2 y2) : Spec.InFrame p.1 p.2 := by
  unfold straightRun at hp
  split at hp
  · obtain ⟨k, hk, rfl⟩ := List.mem_map.1 hp
    have := List.mem_range.1 hk
    exact ⟨h1.1, by omega⟩
  · obtain ⟨k, hk, rfl⟩ := List.mem_map.1 hp
    have := List.mem_range.1 hk
    exact ⟨by omega, h1.2⟩

/-- The words of in-frame pixels under `Reference`, one pixel after another. -/
theorem flatMap_pixelWords_of_reference (hc : c.pixelLowByte = .reference) {points : List (Nat × Nat)}
    (h : ∀ p ∈ points, Spec.InFrame p.1 p.2) :
    points.flatMap (fun p => pixelWords c p.1 p.2 color) = points.flatMap (Spec.pixelWords color.toNat) :=
  List.flatMap_congr fun p hp => pixelWords_of_reference hc (h p hp)

/-! ## LINE between in-frame end points (rule R104) -/

/-- `LINE` is `line` under this hardware's parameters (rules R5, R104). -/
theorem exec_line (x1 y1 x2 y2 color : U16) (s : State) :
    exec (.line x1 y1 x2 y2 color) s = line hardware x1 y1 x2 y2 color s := rfl

theorem inFrame_and_iff : (inFrame x1 y1 && inFrame x2 y2) = true ↔ Spec.InFrame x1 y1 ∧ Spec.InFrame x2 y2 := by
  rw [Bool.and_eq_true, inFrame_iff, inFrame_iff]

/-- A ready line between in-frame end points whose touch list is in frame sends the words of its pixels. -/
theorem line_sends {x1 y1 x2 y2 : U16} (hc : c.pixelLowByte = .reference) (h : Spec.Ready s)
    (h1 : Spec.InFrame x1.toNat y1.toNat) (h2 : Spec.InFrame x2.toNat y2.toNat)
    (hp : ∀ p ∈ lineTouches c x1.toNat y1.toNat x2.toNat y2.toNat, Spec.InFrame p.1 p.2) :
    ∃ t, line c x1 y1 x2 y2 color s = .next t ∧
      Spec.Sent c.tStrobeUs
        ((lineTouches c x1.toNat y1.toNat x2.toNat y2.toNat).flatMap (Spec.pixelWords color.toNat)) s t := by
  refine whenReady_sends h ?_
  rw [drawLine_of_inFrame (inFrame_and_iff.2 ⟨h1, h2⟩), drawPixels_of_inFrame fun p hm => inFrame_iff.2 (hp p hm),
    flatMap_pixelWords_of_reference hc hp]

theorem line_sends_straightRun {x1 y1 x2 y2 : U16} (hc : c.pixelLowByte = .reference) (h : Spec.Ready s)
    (h1 : Spec.InFrame x1.toNat y1.toNat) (h2 : Spec.InFrame x2.toNat y2.toNat)
    (hst : x1.toNat = x2.toNat ∨ y1.toNat = y2.toNat) :
    ∃ t, line c x1 y1 x2 y2 color s = .next t ∧
      Spec.Sent c.tStrobeUs
        ((straightRun x1.toNat y1.toNat x2.toNat y2.toNat).flatMap (Spec.pixelWords color.toNat)) s t := by
  rw [← lineTouches_of_straight (c := c) hst]
  refine line_sends hc h h1 h2 fun p hp => ?_
  rw [lineTouches_of_straight hst] at hp
  exact inFrame_of_mem_straightRun h1 h2 hp

/-- In frame, a straight line comes to the same with its end points exchanged. -/
theorem drawLine_comm_of_straight (h1 : Spec.InFrame x1 y1) (h2 : Spec.InFrame x2 y2) (hst : x1 = x2 ∨ y1 = y2) :
    drawLine c x1 y1 x2 y2 color = drawLine c x2 y2 x1 y1 color := by
  funext s
  rw [drawLine_of_inFrame (inFrame_and_iff.2 ⟨h1, h2⟩), drawLine_of_inFrame (inFrame_and_iff.2 ⟨h2, h1⟩),
    lineTouches_of_straight hst, lineTouches_of_straight (hst.imp Eq.symm Eq.symm), straightRun_comm hst]

theorem line_comm_of_straight {x1 y1 x2 y2 : U16} (h1 : Spec.InFrame x1.toNat y1.toNat)
    (h2 : Spec.InFrame x2.toNat y2.toNat) (hst : x1.toNat = x2.toNat ∨ y1.toNat = y2.toNat) :
    line c x1 y1 x2 y2 color s = line c x2 y2 x1 y1 color s := by
  rw [line, line, drawLine_comm_of_straight h1 h2 hst]

/-! ## Actions of several invocations -/

@[simp] theorem actionWords_map_word (ws : List (Bool × Byte)) : actionWords (ws.map .word) = ws := by
  induction ws with
  | nil => rfl
  | cons w ws ih => rw [List.map_cons, actionWords_word, ih]

@[simp] theorem actionReports_map_word (ws : List (Bool × Byte)) : actionReports (ws.map .word) = [] := by
  induction ws with
  | nil => rfl
  | cons w ws ih => rw [List.map_cons, actionReports_word, ih]

theorem actionWords_flatMap {α : Type} (xs : List α) (acts : α → List Action) :
    actionWords (xs.flatMap acts) = xs.flatMap fun a => actionWords (acts a) := List.filterMap_flatMap

theorem actionReports_flatMap {α : Type} (xs : List α) (acts : α → List Action) :
    actionReports (xs.flatMap acts) = xs.flatMap fun a => actionReports (acts a) := List.filterMap_flatMap

/-! ## The lines of a rectangle (rules R110 to R112) -/

/-- `RECT` is `rect` under this hardware's parameters (rules R5, R110). -/
theorem exec_rect (x y size color : U16) (filled : Bool) (s : State) :
    exec (.rect x y size color filled) s = rect hardware x y size color filled s := rfl

theorem rectLines_eq_spec (x y size : Nat) (filled : Bool) :
    rectLines x y size filled = Spec.rectLines x y size filled := by
  cases filled with
  | false => rfl
  | true =>
    have hrows : ascending y (y + size) = (List.range (size + 1)).map (y + ·) := by
      rw [ascending_eq_map_range (Nat.le_add_right y size), Nat.add_sub_cancel_left]
    simp [rectLines, Spec.rectLines, hrows]

/-- Every line of a rectangle keeps one coordinate. -/
theorem straight_of_mem_rectLines {size : Nat} {filled : Bool} {l : Nat × Nat × Nat × Nat}
    (h : l ∈ Spec.rectLines x y size filled) : l.1 = l.2.2.1 ∨ l.2.1 = l.2.2.2 := by
  cases filled with
  | false =>
    simp only [Spec.rectLines, Bool.false_eq_true, if_false, List.mem_cons, List.not_mem_nil, or_false] at h
    rcases h with rfl | rfl | rfl | rfl <;> simp
  | true =>
    obtain ⟨k, -, rfl⟩ := List.mem_map.1 h
    exact .inr rfl

theorem lineInFrame_eq (l : Nat × Nat × Nat × Nat) :
    Spec.lineInFrame l = (inFrame l.1 l.2.1 && inFrame l.2.2.1 l.2.2.2) := by
  simp [Spec.lineInFrame, inFrame, Bool.and_assoc]

variable {l : Nat × Nat × Nat × Nat}

/-- A straight `LINE'` in frame is bus writes of its run. -/
theorem lineActions_of_lineInFrame (hst : l.1 = l.2.2.1 ∨ l.2.1 = l.2.2.2) (hf : Spec.lineInFrame l = true) :
    lineActions l.1 l.2.1 l.2.2.1 l.2.2.2 color = (Spec.rectLineWords color.toNat l).map .word := by
  rw [lineInFrame_eq] at hf
  obtain ⟨h1, h2⟩ := inFrame_and_iff.1 hf
  have hp : ∀ p ∈ straightRun l.1 l.2.1 l.2.2.1 l.2.2.2, Spec.InFrame p.1 p.2 :=
    fun p => inFrame_of_mem_straightRun h1 h2
  have hwords : Spec.rectLineWords color.toNat l =
      (straightRun l.1 l.2.1 l.2.2.1 l.2.2.2).flatMap (Spec.pixelWords color.toNat) :=
    if_pos (by rw [lineInFrame_eq, hf])
  rw [lineActions, if_pos hf, lineTouches_of_straight hst, hwords,
    ← flatMap_pixelWords_of_reference hardware_pixelLowByte hp, List.map_flatMap]
  exact List.flatMap_congr fun p hm => if_pos (inFrame_iff.2 (hp p hm))

/-- A `LINE'` out of frame is one report. -/
theorem lineActions_of_not_lineInFrame (hf : Spec.lineInFrame l = false) :
    lineActions l.1 l.2.1 l.2.2.1 l.2.2.2 color = [.raise (.line l.1 l.2.1 l.2.2.1 l.2.2.2)] := by
  rw [lineActions, ← lineInFrame_eq, hf]
  rfl

theorem actionWords_lineActions (hst : l.1 = l.2.2.1 ∨ l.2.1 = l.2.2.2) :
    actionWords (lineActions l.1 l.2.1 l.2.2.1 l.2.2.2 color) = Spec.rectLineWords color.toNat l := by
  cases hf : Spec.lineInFrame l with
  | true => rw [lineActions_of_lineInFrame hst hf, actionWords_map_word]
  | false => simp [lineActions_of_not_lineInFrame hf, Spec.rectLineWords, hf]

theorem actionReports_lineActions (hst : l.1 = l.2.2.1 ∨ l.2.1 = l.2.2.2) :
    actionReports (lineActions l.1 l.2.1 l.2.2.1 l.2.2.2 color) = Spec.rectLineReports l := by
  cases hf : Spec.lineInFrame l with
  | true => simp [lineActions_of_lineInFrame hst hf, Spec.rectLineReports, hf]
  | false => simp [lineActions_of_not_lineInFrame hf, Spec.rectLineReports, hf]

theorem events_lineActions (hst : l.1 = l.2.2.1 ∨ l.2.1 = l.2.2.2) :
    (lineActions l.1 l.2.1 l.2.2.1 l.2.2.2 color).flatMap Action.events = Spec.rectLineEvents color.toNat l := by
  cases hf : Spec.lineInFrame l with
  | true =>
    rw [lineActions_of_lineInFrame hst hf, List.flatMap_map, Spec.rectLineEvents]
    simp [Spec.rectLineReports, hf, Action.events, wordEvents_eq_transferEvents]
  | false =>
    simp [lineActions_of_not_lineInFrame hf, Spec.rectLineEvents, Spec.rectLineWords, Spec.rectLineReports, hf,
      Action.events]

section

variable {size : Nat} {filled : Bool}

theorem actionWords_rectActions :
    actionWords (rectActions x y size color filled) =
      (Spec.rectLines x y size filled).flatMap (Spec.rectLineWords color.toNat) := by
  rw [rectActions, rectLines_eq_spec, actionWords_flatMap]
  exact List.flatMap_congr fun l hl => actionWords_lineActions (straight_of_mem_rectLines hl)

theorem actionReports_rectActions :
    actionReports (rectActions x y size color filled) =
      (Spec.rectLines x y size filled).flatMap Spec.rectLineReports := by
  rw [rectActions, rectLines_eq_spec, actionReports_flatMap]
  exact List.flatMap_congr fun l hl => actionReports_lineActions (straight_of_mem_rectLines hl)

theorem events_rectActions :
    (rectActions x y size color filled).flatMap Action.events =
      (Spec.rectLines x y size filled).flatMap (Spec.rectLineEvents color.toNat) := by
  rw [rectActions, rectLines_eq_spec, List.flatMap_assoc]
  exact List.flatMap_congr fun l hl => events_lineActions (straight_of_mem_rectLines hl)

end

/-- Lines make no report exactly when all of them are in frame. -/
theorem isEmpty_flatMap_rectLineReports (ls : List (Nat × Nat × Nat × Nat)) :
    (ls.flatMap Spec.rectLineReports).isEmpty = ls.all Spec.lineInFrame := by
  rw [Bool.eq_iff_iff, List.isEmpty_iff, List.flatMap_eq_nil_iff, List.all_eq_true]
  simp [Spec.rectLineReports]

/-- `RECT` after its preconditions (rule R110): the state and the status it comes to, in terms of the spec's lines. -/
theorem drawRect_eq_spec (x y size : Nat) (color : U16) (filled : Bool) (s : State) :
    drawRect hardware x y size color filled s =
      let ls := Spec.rectLines x y size filled
      let ws := ls.flatMap (Spec.rectLineWords color.toNat)
      ({ s with
        latches := Spec.latchesAfter s.latches ws
        trace := s.trace ++ ls.flatMap (Spec.rectLineEvents color.toNat)
        report := s.report ++ ls.flatMap Spec.rectLineReports
        receiver := acceptAll s.latches.rst s.receiver ws },
       if ls.all Spec.lineInFrame then .ok else .outOfBounds) := by
  rw [drawRect_actions, runActions_eq, actionWords_rectActions, actionReports_rectActions, events_rectActions,
    latchesAfterAll_eq_spec, isEmpty_flatMap_rectLineReports]

end Machine

open Machine

/-- Settles O14: ready, the bounds check alone decides between the one report and the thirteen words. -/
theorem pixelDrawsOneCell : Obligations.PixelDrawsOneCell := by
  intro s x y color
  refine ⟨whenReady_of_not, whenReady_of_lc_ne, pixel_of_outOfFrame, fun h hf => ⟨?_, ?_⟩⟩
  · rw [exec_pixel, ← pixelWords_of_reference hardware_pixelLowByte hf]
    exact pixel_sends h hf
  · rw [← pixelWords_of_corrected (c := { hardware with pixelLowByte := .corrected }) rfl hf]
    exact pixel_sends h hf

/-- Settles O16: a straight line's touch list is one ascending run, which exchanging the end points does not change. -/
theorem straightRunsEitherWay : Obligations.StraightRunsEitherWay := by
  intro s x1 y1 x2 y2 color h h1 h2
  simp only [exec_line]
  refine ⟨fun hx => ?_, fun hx hy => ?_⟩
  · have hx' : x1.toNat = x2.toNat := congrArg BitVec.toNat hx
    refine ⟨by simp [Spec.column], line_comm_of_straight h1 h2 (.inl hx'), ?_⟩
    have hsent := line_sends_straightRun hardware_pixelLowByte (color := color) h h1 h2 (.inl hx')
    rwa [straightRun, if_pos hx'] at hsent
  · have hx' : x1.toNat ≠ x2.toNat := BitVec.toNat_ne.1 hx
    have hy' : y1.toNat = y2.toNat := congrArg BitVec.toNat hy
    refine ⟨by simp [Spec.row], line_comm_of_straight h1 h2 (.inr hy'), ?_⟩
    have hsent := line_sends_straightRun hardware_pixelLowByte (color := color) h h1 h2 (.inr hy')
    rwa [straightRun, if_neg hx'] at hsent

/-- Settles O20: ready, the body is its lines' actions in order, each line drawn or reported on its own. -/
theorem rectDrawsItsLines : Obligations.RectDrawsItsLines := by
  intro s x y size color filled
  rw [exec_rect]
  refine ⟨whenReady_of_not, whenReady_of_lc_ne, fun h => ⟨_, whenReady_of_ready h, ?_⟩⟩
  rw [drawRect_eq_spec]
  exact ⟨rfl, rfl, rfl, rfl, rfl, rfl, rfl⟩

end Sys2Proof
end

section
/-! Reports, refusals and completion (rules R120, R123, R124): a line out of frame, the reports of a rectangle's lines, and
what the preconditions of every instruction come to, in terms of the refusal that `exec_eq` gives. -/

namespace Sys2Proof

namespace Machine

variable {c : Config} {s : State} {color : U16} {i : Instr}

/-! ## OutOfBounds (rule R120) -/

/-- A ready line with an end point out of frame is one report. -/
theorem line_of_outOfFrame {x1 y1 x2 y2 : U16} (h : Spec.Ready s)
    (hf : ¬(Spec.InFrame x1.toNat y1.toNat ∧ Spec.InFrame x2.toNat y2.toNat)) :
    line c x1 y1 x2 y2 color s = .next (Spec.reported (.line x1.toNat y1.toNat x2.toNat y2.toNat) s) := by
  rw [line, whenReady_of_ready h, drawLine_of_outOfFrame (Bool.eq_false_iff.2 (mt inFrame_and_iff.1 hf)),
    finish_raiseOutOfBounds]

/-- The reports of lines drawn in order are one record for each line out of frame. -/
theorem flatMap_rectLineReports (ls : List (Nat × Nat × Nat × Nat)) :
    ls.flatMap Spec.rectLineReports =
      (ls.filter fun l => !Spec.lineInFrame l).map fun l => .outOfBounds (.line l.1 l.2.1 l.2.2.1 l.2.2.2) := by
  induction ls with
  | nil => rfl
  | cons l ls ih => cases hf : Spec.lineInFrame l <;> simp [Spec.rectLineReports, hf, ih]

/-! ## Refusals (rule R124) -/

/-- Unconfigured, every instruction but `CONFIGURE` and the reserved row is refused for that reason. -/
theorem exec_of_not_cfg (hc : i ≠ .configure) (hr : ∀ op, i ≠ .reservedOp op) (h : s.cfg = false) :
    exec i s = .refused .notConfigured := by
  have href : refusalOf false s.lc i = some .notConfigured := by
    unfold refusalOf
    split
    case h_1 => exact absurd rfl hc
    case h_7 op => exact absurd rfl (hr op)
    all_goals rfl
  rw [exec_eq, h, href]

/-- The reserved row is none of the eleven operations. -/
theorem ne_reservedOp_of_isOperation (hi : Spec.isOperation i = true) (op : BitVec 4) : i ≠ .reservedOp op := by
  rintro rfl
  cases hi

/-- Two requests at once are refused (rule R124, `Concurrent`). -/
theorem step_of_overlapping {f g : Frame} {rest : List Request} (hp : s.pending = .overlapping f g :: rest) :
    step s = .refused .concurrent := by
  simp only [step, hp, decodeRequest]

/-! ## Completion (rule R123) -/

/-- An instruction completes exactly when nothing refuses it. -/
theorem exists_exec_next_iff : (∃ t, exec i s = .next t) ↔ refusalOf s.cfg s.lc i = none := by
  simp only [exec_next, exists_and_left, exists_eq, and_true]

/-- A condition that refuses when it fails lets through exactly when it holds and what comes after it lets through. -/
theorem ite_some_eq_none {p : Prop} [Decidable p] {o : Option Refusal} {r : Refusal} :
    (if p then o else some r) = none ↔ p ∧ o = none := by
  split <;> simp [*]

/-- Nothing refuses an operation exactly when its precondition holds, row by row of rule R124. -/
theorem refusalOf_eq_none_iff (hi : Spec.isOperation i = true) :
    refusalOf s.cfg s.lc i = none ↔ Spec.precondition s i := by
  unfold refusalOf
  split
  case h_1 => simp [Spec.precondition]
  case h_7 => cases hi
  all_goals simp only [ite_some_eq_none, Spec.precondition, Spec.Ready, isAddressWindow_iff, and_true, and_assoc]

end Machine

open Machine

/-- Settles O23: a failing pixel or line is its report and no more; a rectangle's reports are those of its lines. -/
theorem outOfBoundsOnlyReports : Obligations.OutOfBoundsOnlyReports := by
  intro s x1 y1 x2 y2 color hs
  refine ⟨fun hf => pixel_of_outOfFrame hs (by omega), fun hf => line_of_outOfFrame hs (by omega),
    fun size filled t ht => ?_⟩
  obtain ⟨-, -, hdraws⟩ := rectDrawsItsLines s x1 y1 size color filled
  obtain ⟨t', ht', -, hreport, -⟩ := hdraws hs
  obtain rfl : t = t' := Host.Outcome.next.inj (ht.symm.trans ht')
  rw [hreport, flatMap_rectLineReports]

/-- Settles O24: each reason of rule R124 is the precondition that fails first. -/
theorem contractViolationsRefused : Obligations.ContractViolationsRefused :=
  ⟨fun _ _ hi hc => exec_of_not_cfg hc (ne_reservedOp_of_isOperation hi),
    fun _ => configure_of_cfg,
    fun _ => initialise_of_lc_ne,
    fun _ _ _ _ _ _ _ hcfg hlc => ⟨setWindow_of_lc_ne hcfg hlc, whenReady_of_lc_ne hcfg hlc,
      whenReady_of_lc_ne hcfg hlc, whenReady_of_lc_ne hcfg hlc⟩,
    fun _ _ _ _ _ hs hw => setWindow_of_not_window hs (by omega),
    fun s op => exec_reservedOp op s,
    fun _ _ _ _ => step_of_overlapping⟩

/-- Settles O25: an operation completes when nothing refuses it, which is its precondition. -/
theorem totalOnPreconditions : Obligations.TotalOnPreconditions :=
  fun _ _ hi => exists_exec_next_iff.trans (refusalOf_eq_none_iff hi)

end Sys2Proof
end

section
/-! The power-up state (rule R140): what the block accepts before `CONFIGURE`. -/

namespace Sys2Proof

namespace Machine

variable {s : State} {i : Instr}

/-- Unconfigured, `CONFIGURE` alone of the eleven operations is performed (rules R124, R140). -/
theorem exists_exec_next_iff_of_not_cfg (hi : Spec.isOperation i = true) (h : s.cfg = false) :
    (∃ t, exec i s = .next t) ↔ i = .configure := by
  constructor
  · rintro ⟨t, ht⟩
    by_contra hc
    rw [exec_of_not_cfg hc (ne_reservedOp_of_isOperation hi) h] at ht
    cases ht
  · rintro rfl
    exact (totalOnPreconditions .configure s rfl).2 h

end Machine

open Machine

/-- Settles O1: the fields are those of `State.reset`; what is accepted follows from its `cfg` alone. -/
theorem powerUpAcceptsOnlyConfigure : Obligations.PowerUpAcceptsOnlyConfigure :=
  ⟨rfl, rfl, rfl, rfl, rfl, fun _ hi => exists_exec_next_iff_of_not_cfg hi rfl⟩

end Sys2Proof
end

section
/-! What every instruction does, read off the events it adds (rules R22, R24): the latches and the reports after it
follow from its events alone. Statements about all instructions go through `exec_next_iff_after` and `eventsOf_induction`. -/

namespace Sys2Proof

namespace Machine

variable {s t : State} {i : Instr}

/-! ## Lists of events in a row -/

theorem replay_append (ls : Latches) (es es' : List Event) :
    replay ls (es ++ es') = replay (replay ls es) es' := List.foldl_append

theorem reportsOf_append (es es' : List Event) : reportsOf (es ++ es') = reportsOf es ++ reportsOf es' :=
  List.filterMap_append

theorem minDuration_append (es es' : List Event) : minDuration (es ++ es') = minDuration es + minDuration es' := by
  simp [minDuration, delays]

theorem strobeCount_append (es es' : List Event) : strobeCount (es ++ es') = strobeCount es + strobeCount es' :=
  List.countP_append

theorem wordsFrom_append (ls : Latches) (es es' : List Event) :
    wordsFrom ls (es ++ es') = wordsFrom ls es ++ wordsFrom (replay ls es) es' := by
  induction es generalizing ls with
  | nil => rfl
  | cons e es ih =>
    simp only [List.cons_append, wordsFrom, ih]
    split
    · rw [List.append_assoc]; rfl
    · rfl

/-! ## The events of one bus write (rule R71) -/

theorem replay_wordEvents (c : Config) (ls : Latches) (w : Bool × Byte) :
    replay ls (wordEvents c w) = latchesAfter ls w := rfl

theorem replay_flatMap_wordEvents (c : Config) (ls : Latches) (ws : List (Bool × Byte)) :
    replay ls (ws.flatMap (wordEvents c)) = latchesAfterAll ls ws := by
  induction ws generalizing ls with
  | nil => rfl
  | cons w ws ih => rw [List.flatMap_cons, replay_append, replay_wordEvents, ih, latchesAfterAll_cons]

@[simp] theorem wordsFrom_wordEvents (c : Config) (ls : Latches) (w : Bool × Byte) :
    wordsFrom ls (wordEvents c w) = [w] := by
  obtain ⟨d, b⟩ := w
  cases d <;> rfl

@[simp] theorem reportsOf_wordEvents (c : Config) (w : Bool × Byte) : reportsOf (wordEvents c w) = [] := rfl

theorem strobeCount_wordEvents (c : Config) (w : Bool × Byte) : strobeCount (wordEvents c w) = 1 := rfl

theorem minDuration_wordEvents (c : Config) (w : Bool × Byte) : minDuration (wordEvents c w) = c.tStrobeUs :=
  rfl

/-! ## The events of an instruction -/

/-- The events an instruction adds to the trace, from whatever state it runs (rule R22). -/
def eventsOf : Instr → List Event
  | .configure => configureEvents hardware
  | .reset => resetEvents
  | .init => initScript.flatMap (entryEvents hardware)
  | i => (actionsOf i).flatMap Action.events

theorem eventsOf_actions (hc : i ≠ .configure) (hr : i ≠ .reset) (hi : i ≠ .init) :
    eventsOf i = (actionsOf i).flatMap Action.events := by
  unfold eventsOf
  split <;> first | contradiction | rfl

/-- What holds of no event, of two lists of events in a row when of each, and of each list that operations are made of,
holds of the events of every instruction. -/
theorem eventsOf_induction {P : List Event → Prop} (hnil : P []) (happend : ∀ es es', P es → P es' → P (es ++ es'))
    (hword : ∀ w, P (wordEvents hardware w)) (hdelay : ∀ us, P [.delay us]) (hreport : ∀ r, P [.report r])
    (hreset : i = .reset → P resetEvents) (hconfigure : i = .configure → P (configureEvents hardware)) :
    P (eventsOf i) := by
  have hflat : ∀ {α : Type} (f : α → List Event) (xs : List α), (∀ x, P (f x)) → P (xs.flatMap f) := by
    intro α f xs hf
    induction xs with
    | nil => exact hnil
    | cons x xs ih => exact happend _ _ (hf x) ih
  have hentry : ∀ e, P (entryEvents hardware e) := by
    intro e
    refine happend _ _ (hflat _ _ hword) ?_
    split
    · exact hdelay _
    · exact hnil
  have haction : ∀ a, P (Action.events a) := by
    rintro (w | info)
    · exact hword w
    · exact hreport _
  by_cases hc : i = .configure
  · subst hc; exact hconfigure rfl
  by_cases hr : i = .reset
  · subst hr; exact hreset rfl
  by_cases hi : i = .init
  · subst hi; exact hflat _ _ hentry
  rw [eventsOf_actions hc hr hi]
  exact hflat _ _ haction

/-! ## The state after an instruction -/

/-- `lc` after an instruction that completes (rules R16, R93). -/
def lifecycleAfter (lc : Lifecycle) : Instr → Lifecycle
  | .reset => .runningInitScript
  | .init => .awakeReady
  | _ => lc

theorem lifecycleAfter_of_ne (hr : i ≠ .reset) (hi : i ≠ .init) (lc : Lifecycle) : lifecycleAfter lc i = lc := by
  unfold lifecycleAfter
  split <;> first | contradiction | rfl

/-- The words an instruction sends to the receiver (rule R31). -/
def sentWords : Instr → List (Bool × Byte)
  | .init => initScript.flatMap entryWords
  | i => actionWords (actionsOf i)

/-- The receiver after an instruction, `RST` standing at `rst` before it (rules R38 to R41; log 6). -/
def receiverAfter (rst : Level) (r : Receiver) : Instr → Receiver
  | .configure => r.lose
  | .reset => { r.lose with phase := .sinceReset 0 }
  | .init => (acceptAll rst r (sentWords .init)).broughtUp 82
  | i => acceptAll rst r (sentWords i)

/-- The status an instruction returns: `OutOfBounds` when it reported (rule R18). -/
def statusOf (i : Instr) : Status := if (reportsOf (eventsOf i)).isEmpty then .ok else .outOfBounds

/-- The state after an instruction that completes. -/
def stateAfter (i : Instr) (s : State) : State :=
  { latches := replay s.latches (eventsOf i)
    cfg := s.cfg || i == .configure
    lc := lifecycleAfter s.lc i
    trace := s.trace ++ eventsOf i
    report := s.report ++ reportsOf (eventsOf i)
    returns := s.returns ++ [statusOf i]
    pending := s.pending
    receiver := receiverAfter s.latches.rst s.receiver i }

theorem replay_configureEvents (c : Config) (ls : Latches) :
    replay ls (configureEvents c) =
      ⟨.high, .high, Level.ofBit c.rsIdle, .high, Level.ofBit c.rstIdle, .byte 0x00⟩ := rfl

theorem replay_resetEvents (ls : Latches) : replay ls resetEvents = { ls with rst := .high } := rfl

theorem replay_entryEvents (c : Config) (ls : Latches) (e : ScriptEntry) :
    replay ls (entryEvents c e) = latchesAfterAll ls (entryWords e) := by
  rw [entryEvents, replay_append, replay_flatMap_wordEvents]
  split <;> rfl

theorem replay_script (c : Config) (ls : Latches) (script : List ScriptEntry) :
    replay ls (script.flatMap (entryEvents c)) = latchesAfterAll ls (script.flatMap entryWords) := by
  induction script generalizing ls with
  | nil => rfl
  | cons e es ih =>
    rw [List.flatMap_cons, List.flatMap_cons, replay_append, replay_entryEvents, ih, latchesAfterAll_append]

theorem replay_actions (ls : Latches) (as : List Action) :
    replay ls (as.flatMap Action.events) = latchesAfterAll ls (actionWords as) := by
  induction as generalizing ls with
  | nil => rfl
  | cons a as ih =>
    rw [List.flatMap_cons, replay_append, ih]
    cases a <;> rfl

theorem reportsOf_actions (as : List Action) : reportsOf (as.flatMap Action.events) = actionReports as := by
  induction as with
  | nil => rfl
  | cons a as ih =>
    rw [List.flatMap_cons, reportsOf_append, ih]
    cases a <;> rfl

theorem reportsOf_flatMap_wordEvents (c : Config) (ws : List (Bool × Byte)) :
    reportsOf (ws.flatMap (wordEvents c)) = [] := by
  induction ws with
  | nil => rfl
  | cons w ws ih => rw [List.flatMap_cons, reportsOf_append, ih, reportsOf_wordEvents, List.nil_append]

theorem reportsOf_script (c : Config) (script : List ScriptEntry) :
    reportsOf (script.flatMap (entryEvents c)) = [] := by
  induction script with
  | nil => rfl
  | cons e es ih =>
    rw [List.flatMap_cons, reportsOf_append, ih, entryEvents, reportsOf_append, reportsOf_flatMap_wordEvents]
    split <;> rfl

theorem receiverAfter_of_actions (hc : i ≠ .configure) (hr : i ≠ .reset) (hi : i ≠ .init) (rst : Level)
    (r : Receiver) : receiverAfter rst r i = acceptAll rst r (actionWords (actionsOf i)) := by
  unfold receiverAfter sentWords
  split <;> first | contradiction | (split <;> first | contradiction | rfl)

/-- The body of an instruction and its return, as the state after it. -/
theorem bodyOf_eq_stateAfter (i : Instr) (s : State) (hcfg : i ≠ .configure → s.cfg = true) :
    { (bodyOf i s).1 with returns := (bodyOf i s).1.returns ++ [(bodyOf i s).2] } = stateAfter i s := by
  by_cases hc : i = .configure
  · subst hc
    simp [bodyOf, configureBody_eq, stateAfter, eventsOf, replay_configureEvents, lifecycleAfter, statusOf,
      receiverAfter, show reportsOf (configureEvents hardware) = [] from rfl]
  by_cases hr : i = .reset
  · subst hr
    simp [bodyOf, resetBody_eq, stateAfter, eventsOf, replay_resetEvents, lifecycleAfter, statusOf, receiverAfter,
      show reportsOf resetEvents = [] from rfl]
  by_cases hi : i = .init
  · subst hi
    have hlatches : latchesAfterAll s.latches (initScript.flatMap entryWords) =
        latchesAfter s.latches (false, 0x29) := by
      rw [initScript_words_concat, latchesAfterAll_concat]
    simp [bodyOf, initBody_eq, stateAfter, eventsOf, replay_script, hlatches, reportsOf_script, lifecycleAfter,
      statusOf, receiverAfter, sentWords]
  rw [bodyOf_actions hc hr hi, runActions_eq]
  simp [stateAfter, statusOf, eventsOf_actions hc hr hi, replay_actions, reportsOf_actions, lifecycleAfter_of_ne hr hi,
    receiverAfter_of_actions hc hr hi, hcfg hc]

/-- Nothing but `CONFIGURE` runs unconfigured (rule R124). -/
theorem cfg_of_refusalOf_eq_none (h : refusalOf s.cfg s.lc i = none) (hc : i ≠ .configure) : s.cfg = true := by
  by_contra hcfg
  rw [Bool.not_eq_true] at hcfg
  rw [hcfg] at h
  unfold refusalOf at h
  split at h <;> simp at h hc

/-- One inversion for all instructions: it completes exactly when nothing refuses it, in `stateAfter`. -/
theorem exec_next_iff_after : exec i s = .next t ↔ refusalOf s.cfg s.lc i = none ∧ t = stateAfter i s := by
  rw [exec_next]
  refine and_congr_right fun h => ?_
  rw [bodyOf_eq_stateAfter i s (cfg_of_refusalOf_eq_none h)]

theorem eq_stateAfter_of_exec (h : exec i s = .next t) : t = stateAfter i s := (exec_next_iff_after.1 h).2

theorem exec_eq_stateAfter (h : refusalOf s.cfg s.lc i = none) : exec i s = .next (stateAfter i s) :=
  exec_next_iff_after.2 ⟨h, rfl⟩

theorem cfg_of_exec (h : exec i s = .next t) (hc : i ≠ .configure) : s.cfg = true :=
  cfg_of_refusalOf_eq_none (exec_next_iff_after.1 h).1 hc

/-- `CONFIGURE` runs unconfigured only (rule R70). -/
theorem not_cfg_of_exec_configure (h : exec .configure s = .next t) : s.cfg = false := by
  have := (exec_next_iff_after.1 h).1
  simpa [refusalOf] using this

/-- The events an instruction has added to the trace. -/
theorem drop_trace_of_exec (h : exec i s = .next t) : t.trace.drop s.trace.length = eventsOf i := by
  rw [eq_stateAfter_of_exec h]
  exact List.drop_left

/-! ## Steps -/

/-- A step waits, or performs the instruction that the next request decodes to. -/
theorem step_next (h : step s = .next t) :
    t = s ∨ ∃ r rest i, s.pending = r :: rest ∧ decodeRequest r = .ok i ∧
      exec i { s with pending := rest } = .next t := by
  unfold step at h
  split at h
  · exact .inl (Host.Outcome.next.inj h).symm
  · next r rest hp =>
    split at h
    · next i hd => exact .inr ⟨r, rest, i, hp, hd, h⟩
    · cases h

/-- A property of states that does not look at the waiting requests, every step keeps when every instruction does. -/
theorem step_keeps {P : State → Prop} (hpending : ∀ s rest, P s → P { s with pending := rest })
    (hexec : ∀ i s t, P s → exec i s = .next t → P t) (hs : P s) (h : step s = .next t) : P t := by
  rcases step_next h with rfl | ⟨r, rest, i, -, -, hi⟩
  · exact hs
  · exact hexec i _ t (hpending s rest hs) hi

end Machine

end Sys2Proof
end

section
/-! The invariants of the block that every step keeps (rules R18, R24, R72, R93, R143, R145): each is a property of
lists of events in a row, by `eventsOf_induction`. -/

namespace Sys2Proof

namespace Machine

variable {s t : State} {i : Instr}

/-! ## Idle levels (rules R72, R93) -/

/-- The levels of the pins of a configured block between operations (rule R72). -/
def IdleLevels (ls : Latches) : Prop :=
  ls.rd = .high ∧ ls.wr = .high ∧ ls.cs = .high ∧ ls.rst = .high ∧ ls.rs ≠ .unclaimed ∧ ls.d ≠ .unclaimed

theorem idleInv_iff_of_cfg (h : s.cfg = true) : IdleInv s ↔ IdleLevels s.latches ∧ s.lc ≠ .resetting := by
  simp [IdleInv, IdleLevels, h, and_assoc]

theorem idleLevels_latchesAfter {ls : Latches} (h : IdleLevels ls) (w : Bool × Byte) :
    IdleLevels (latchesAfter ls w) := by
  obtain ⟨hrd, -, -, hrst, -, -⟩ := h
  exact ⟨hrd, rfl, rfl, hrst, Level.ofBit_ne_unclaimed _, nofun⟩

theorem idleLevels_configured (ls : Latches) : IdleLevels (replay ls (configureEvents hardware)) :=
  ⟨rfl, rfl, rfl, rfl, nofun, nofun⟩

/-- An instruction leaves idle pins idle. -/
theorem idleLevels_replay_eventsOf {ls : Latches} (h : IdleLevels ls) (i : Instr) :
    IdleLevels (replay ls (eventsOf i)) := by
  refine eventsOf_induction (P := fun es => ∀ ls, IdleLevels ls → IdleLevels (replay ls es))
    (fun _ h => h) (fun es es' h h' ls hls => ?_) (fun w ls hls => ?_) (fun _ _ h => h) (fun _ _ h => h)
    (fun _ ls hls => ?_) (fun _ ls _ => idleLevels_configured ls) ls h
  · rw [replay_append]
    exact h' _ (h _ hls)
  · exact idleLevels_latchesAfter hls w
  · obtain ⟨hrd, hwr, hcs, -, hrs, hd⟩ := hls
    exact ⟨hrd, hwr, hcs, rfl, hrs, hd⟩

theorem lifecycleAfter_ne_resetting {lc : Lifecycle} (h : lc ≠ .resetting) (i : Instr) :
    lifecycleAfter lc i ≠ .resetting := by
  unfold lifecycleAfter
  split <;> first | exact h | nofun

theorem exec_keeps_idleInv (hs : IdleInv s) (h : exec i s = .next t) : IdleInv t := by
  rw [eq_stateAfter_of_exec h]
  by_cases hc : i = .configure
  · subst hc
    have hcfg := not_cfg_of_exec_configure h
    rw [idleInv_iff_of_cfg (by simp [stateAfter])]
    refine ⟨idleLevels_configured _, ?_⟩
    simp only [IdleInv, hcfg, Bool.false_eq_true, if_false] at hs
    obtain ⟨-, hlc, -⟩ := hs
    exact lifecycleAfter_ne_resetting (lc := s.lc) (by rw [hlc]; nofun) .configure
  · have hcfg := cfg_of_exec h hc
    obtain ⟨hidle, hlc⟩ := (idleInv_iff_of_cfg hcfg).1 hs
    rw [idleInv_iff_of_cfg (by simp [stateAfter, hcfg])]
    exact ⟨idleLevels_replay_eventsOf hidle i, lifecycleAfter_ne_resetting hlc i⟩

/-! ## Waveform and reports (rules R18, R24) -/

theorem exec_keeps_waveformInv (hs : WaveformInv s) (h : exec i s = .next t) : WaveformInv t := by
  rw [eq_stateAfter_of_exec h, WaveformInv, stateAfter, replay_append, hs]

theorem exec_keeps_reportInv (hs : ReportInv s) (h : exec i s = .next t) : ReportInv t := by
  rw [eq_stateAfter_of_exec h, ReportInv, stateAfter, reportsOf_append, hs]

/-! ## The order of a transfer (rules R72, R143, R145) -/

theorem transferOrdered_append (ls : Latches) (es es' : List Event) :
    transferOrdered ls (es ++ es') = (transferOrdered ls es && transferOrdered (replay ls es) es') := by
  induction es generalizing ls with
  | nil => rfl
  | cons e es ih =>
    rw [List.cons_append, transferOrdered, transferOrdered, ih, Bool.and_assoc]
    rfl

/-- Events whose strobes are held hold theirs before any others. -/
theorem strobesHeld_append {n : Nat} {es es' : List Event} (h : strobesHeld n es = true) :
    strobesHeld n (es ++ es') = strobesHeld n es' := by
  induction es using strobesHeld.induct with
  | case1 => rfl
  | case2 us rest ih =>
    simp only [strobesHeld, Bool.and_eq_true, decide_eq_true_eq] at h
    simp [strobesHeld, h.1, ih h.2]
  | case3 rest hrest => simp [strobesHeld] at h
  | case4 e rest h1 h2 ih =>
    rw [strobesHeld] at h
    · rw [List.cons_append, strobesHeld]
      · exact ih h
      all_goals simp_all
    all_goals simp_all

/-- Events that hold their strobes and, from latches with `WR` not 0, keep the order of a transfer and end with `WR` not
0. -/
def WellTimed (es : List Event) : Prop :=
  strobesHeld hardware.tStrobeUs es = true ∧
  ∀ ls : Latches, ls.wr ≠ .low → transferOrdered ls es = true ∧ (replay ls es).wr ≠ .low

theorem WellTimed.append {es es' : List Event} (h : WellTimed es) (h' : WellTimed es') : WellTimed (es ++ es') := by
  refine ⟨(strobesHeld_append h.1).trans h'.1, fun ls hls => ?_⟩
  obtain ⟨hordered, hwr⟩ := h.2 ls hls
  obtain ⟨hordered', hwr'⟩ := h'.2 _ hwr
  rw [transferOrdered_append, hordered, hordered', replay_append]
  exact ⟨rfl, hwr'⟩

theorem wellTimed_wordEvents (w : Bool × Byte) : WellTimed (wordEvents hardware w) := by
  obtain ⟨d, b⟩ := w
  refine ⟨rfl, fun ls hls => ⟨?_, nofun⟩⟩
  cases d <;> simp [wordEvents, transferOrdered, eventOrdered, Event.apply, wordOnPins, hls]

theorem wellTimed_configureEvents : WellTimed (configureEvents hardware) := by
  refine ⟨rfl, fun ls _ => ⟨?_, nofun⟩⟩
  simp [configureEvents, transferOrdered, eventOrdered, Event.apply]

theorem wellTimed_eventsOf (i : Instr) : WellTimed (eventsOf i) := by
  have hquiet : ∀ es, strobesHeld hardware.tStrobeUs es = true →
      (∀ ls, transferOrdered ls es = true ∧ (replay ls es).wr = ls.wr) → WellTimed es :=
    fun es h h' => ⟨h, fun ls hls => ⟨(h' ls).1, (h' ls).2 ▸ hls⟩⟩
  exact eventsOf_induction (hquiet _ rfl fun _ => ⟨rfl, rfl⟩) (fun _ _ => WellTimed.append) wellTimed_wordEvents
    (fun _ => hquiet _ rfl fun _ => ⟨rfl, rfl⟩) (fun _ => hquiet _ rfl fun _ => ⟨rfl, rfl⟩)
    (fun _ => hquiet _ rfl fun _ => ⟨rfl, rfl⟩) (fun _ => wellTimed_configureEvents)

/-- Between operations `WR` is not 0, configured or not. -/
theorem wr_ne_low_of_idleInv (h : IdleInv s) : s.latches.wr ≠ .low := by
  unfold IdleInv at h
  split at h
  · rw [h.2.1]; nofun
  · rw [h.1]; nofun

theorem exec_keeps_traceOrdered (hidle : IdleInv s) (hwave : WaveformInv s) (hs : TraceOrdered s)
    (h : exec i s = .next t) : TraceOrdered t := by
  obtain ⟨hordered, hheld⟩ := hs
  obtain ⟨hheld', hordered'⟩ := wellTimed_eventsOf i
  rw [eq_stateAfter_of_exec h]
  refine ⟨?_, ?_⟩
  · rw [stateAfter, transferOrdered_append, hordered, hwave]
    exact (hordered' _ (wr_ne_low_of_idleInv hidle)).1
  · rw [stateAfter, strobesHeld_append hheld, hheld']

/-! ## The last word (rule R72) -/

/-- `RS` and `D` hold the last of the words, or their idle values when there is none (rule R72). -/
def HoldsLastWord (ws : List (Bool × Byte)) (ls : Latches) : Prop :=
  match ws.getLast? with
  | some (rs, b) => ls.rs = Level.ofBit rs ∧ ls.d = .byte b
  | none => ls.rs = Level.ofBit hardware.rsIdle ∧ ls.d = .byte 0x00

theorem lastWordInv_iff : LastWordInv s ↔ (s.cfg = true → HoldsLastWord (words s.trace) s.latches) := Iff.rfl

theorem holdsLastWord_latchesAfter (ws : List (Bool × Byte)) (ls : Latches) (w : Bool × Byte) :
    HoldsLastWord (ws ++ [w]) (latchesAfter ls w) := by
  rw [HoldsLastWord, List.getLast?_concat]
  exact ⟨rfl, rfl⟩

/-- An instruction other than `CONFIGURE` leaves `RS` and `D` at the last word of all sent before and by it. -/
theorem holdsLastWord_replay_eventsOf {ws : List (Bool × Byte)} {ls : Latches} (hc : i ≠ .configure)
    (h : HoldsLastWord ws ls) : HoldsLastWord (ws ++ wordsFrom ls (eventsOf i)) (replay ls (eventsOf i)) := by
  have hsilent : ∀ es : List Event, (∀ ls, wordsFrom ls es = [] ∧ (replay ls es).rs = ls.rs ∧ (replay ls es).d = ls.d) →
      ∀ ws ls, HoldsLastWord ws ls → HoldsLastWord (ws ++ wordsFrom ls es) (replay ls es) := by
    intro es hes ws ls h
    obtain ⟨hw, hrs, hd⟩ := hes ls
    rw [hw, List.append_nil, HoldsLastWord, hrs, hd]
    exact h
  refine eventsOf_induction
    (P := fun es => ∀ ws ls, HoldsLastWord ws ls → HoldsLastWord (ws ++ wordsFrom ls es) (replay ls es))
    (hsilent _ fun _ => ⟨rfl, rfl, rfl⟩) (fun es es' h h' ws ls hls => ?_) (fun w ws ls _ => ?_)
    (fun _ => hsilent _ fun _ => ⟨rfl, rfl, rfl⟩) (fun _ => hsilent _ fun _ => ⟨rfl, rfl, rfl⟩)
    (fun _ => hsilent _ fun _ => ⟨rfl, rfl, rfl⟩) (fun h => absurd h hc) ws ls h
  · rw [wordsFrom_append, replay_append, ← List.append_assoc]
    exact h' _ _ (h _ _ hls)
  · rw [wordsFrom_wordEvents, replay_wordEvents]
    exact holdsLastWord_latchesAfter ws ls w

theorem words_append (hwave : WaveformInv s) (es : List Event) :
    words (s.trace ++ es) = words s.trace ++ wordsFrom s.latches es := by
  rw [words, wordsFrom_append, hwave]
  rfl

theorem exec_keeps_lastWordInv (hidle : IdleInv s) (hwave : WaveformInv s) (hs : LastWordInv s)
    (h : exec i s = .next t) : LastWordInv t := by
  rw [eq_stateAfter_of_exec h, lastWordInv_iff]
  intro _
  rw [stateAfter, words_append hwave]
  by_cases hc : i = .configure
  · subst hc
    have hcfg := not_cfg_of_exec_configure h
    simp only [IdleInv, hcfg, Bool.false_eq_true, if_false] at hidle
    obtain ⟨-, -, htrace, -⟩ := hidle
    rw [htrace]
    exact ⟨rfl, rfl⟩
  · exact holdsLastWord_replay_eventsOf hc (hs (cfg_of_exec h hc))

end Machine

open Machine

/-- Settles O35: an instruction leaves idle pins idle, and `CONFIGURE` alone, which makes them so, runs unconfigured. -/
theorem stepKeepsIdleLevels : Obligations.StepKeepsIdleLevels :=
  fun _ _ => step_keeps (fun _ _ hs => hs) (fun _ _ _ => exec_keeps_idleInv)

/-- Settles O36: the latches after an instruction are the replay of its events. -/
theorem stepKeepsWaveform : Obligations.StepKeepsWaveform :=
  fun _ _ => step_keeps (fun _ _ hs => hs) (fun _ _ _ => exec_keeps_waveformInv)

/-- Settles O37: the reports an instruction makes are those of its events. -/
theorem stepKeepsReports : Obligations.StepKeepsReports :=
  fun _ _ => step_keeps (fun _ _ hs => hs) (fun _ _ _ => exec_keeps_reportInv)

/-- Settles O38: the events of an instruction are well timed from latches with `WR` not 0, which idle pins are. -/
theorem stepKeepsTransferOrder : Obligations.StepKeepsTransferOrder := by
  intro s t hidle hwave hs h
  rcases step_next h with rfl | ⟨r, rest, i, -, -, hi⟩
  · exact hs
  · exact exec_keeps_traceOrdered (s := { s with pending := rest }) hidle hwave hs hi

/-- Settles O39: each word sent sets `RS` and `D`; `CONFIGURE`, which sets their idle values, runs before any word. -/
theorem stepKeepsLastWord : Obligations.StepKeepsLastWord := by
  intro s t hidle hwave hs h
  rcases step_next h with rfl | ⟨r, rest, i, -, -, hi⟩
  · exact hs
  · exact exec_keeps_lastWordInv (s := { s with pending := rest }) hidle hwave hs hi

/-- Settles O34: the power-up state has an empty trace, no report, and a receiver of which nothing is known. -/
theorem powerUpInvariants : Obligations.PowerUpInvariants := by
  refine ⟨⟨⟨rfl, rfl, rfl, rfl, rfl⟩, rfl, rfl, ⟨rfl, rfl⟩, nofun⟩, Memory.wf_nil, rfl⟩

end Sys2Proof
end

section
/-! The receiver's invariant (rules R39 to R41): frame memory stays canonical and the position allowed, word by word. -/

namespace Sys2Proof

namespace Machine

variable {r : Receiver}

/-- The invariant of the receiver, of the receiver alone. -/
def ReceiverOk (r : Receiver) : Prop := r.gram.wf ∧ phaseOk r

theorem receiverOk_lose (r : Receiver) : ReceiverOk r.lose := ⟨Memory.wf_nil, rfl⟩

/-- The payload of a column-address-set ends with all lost, or with a column range; or there is more of it to come. -/
theorem takeColumns_cases (r : Receiver) (got : List Byte) :
    r.takeColumns got = r.lose ∨ (∃ w, r.takeColumns got = { r with phase := .idle, window := w }) ∨
      (got.length ≠ 4 ∧ r.takeColumns got = { r with phase := .colSet got }) := by
  unfold Receiver.takeColumns
  split
  · dsimp only
    split
    · exact .inr (.inl ⟨_, rfl⟩)
    · exact .inl rfl
  · next hne =>
    refine .inr (.inr ⟨fun h4 => ?_, rfl⟩)
    obtain ⟨b0, b1, b2, b3, rfl⟩ := List.length_eq_four.1 h4
    exact hne _ _ _ _ rfl

/-- The payload of a row-address-set, likewise. -/
theorem takeRows_cases (r : Receiver) (got : List Byte) :
    r.takeRows got = r.lose ∨ (∃ w, r.takeRows got = { r with phase := .idle, window := w }) ∨
      (got.length ≠ 4 ∧ r.takeRows got = { r with phase := .rowSet got }) := by
  unfold Receiver.takeRows
  split
  · dsimp only
    split
    · exact .inr (.inl ⟨_, rfl⟩)
    · exact .inl rfl
  · next hne =>
    refine .inr (.inr ⟨fun h4 => ?_, rfl⟩)
    obtain ⟨b0, b1, b2, b3, rfl⟩ := List.length_eq_four.1 h4
    exact hne _ _ _ _ rfl

theorem receiverOk_takeColumns (h : r.gram.wf) {got : List Byte} (hgot : got.length ≤ 4) :
    ReceiverOk (r.takeColumns got) := by
  rcases takeColumns_cases r got with heq | ⟨w, heq⟩ | ⟨hne, heq⟩ <;> rw [heq]
  · exact receiverOk_lose r
  · exact ⟨h, trivial⟩
  · exact ⟨h, lt_of_le_of_ne hgot hne⟩

theorem receiverOk_takeRows (h : r.gram.wf) {got : List Byte} (hgot : got.length ≤ 4) :
    ReceiverOk (r.takeRows got) := by
  rcases takeRows_cases r got with heq | ⟨w, heq⟩ | ⟨hne, heq⟩ <;> rw [heq]
  · exact receiverOk_lose r
  · exact ⟨h, trivial⟩
  · exact ⟨h, lt_of_le_of_ne hgot hne⟩

theorem receiverOk_startCommand (h : r.gram.wf) (b : Byte) : ReceiverOk (r.startCommand b) := by
  unfold Receiver.startCommand
  split_ifs with h1 h2 h3 hw
  · exact ⟨h, by simp [phaseOk]⟩
  · exact ⟨h, by simp [phaseOk]⟩
  · rw [Bool.and_eq_true] at hw
    exact ⟨h, hw.1, hw.2, Nat.zero_le _, fun h => absurd rfl h⟩
  · exact receiverOk_lose r
  · exact receiverOk_lose r

theorem columnsValid_iff {w : Window} : columnsValid w = true ↔ w.xs.toNat ≤ w.xe.toNat ∧ w.xe.toNat < 240 := by
  simp [columnsValid]

theorem rowsValid_iff {w : Window} : rowsValid w = true ↔ w.ys.toNat ≤ w.ye.toNat ∧ w.ye.toNat < 320 := by
  simp [rowsValid]

/-- The cells of a window's stream are inside the frame, and so are both their bytes (rule R40). -/
theorem streamAddr_lt {w : Window} {n : Nat} (hcol : columnsValid w = true) (hrow : rowsValid w = true)
    (hn : n < windowCells w) : streamAddr w n + 1 < Memory.size := by
  rw [columnsValid_iff] at hcol
  rw [rowsValid_iff] at hrow
  have hcolumn : n % windowColumns w < windowColumns w := Nat.mod_lt _ (Nat.succ_pos _)
  have hline : n / windowColumns w < w.ye.toNat - w.ys.toNat + 1 := Nat.div_lt_of_lt_mul hn
  have hcolumns : windowColumns w = w.xe.toNat - w.xs.toNat + 1 := rfl
  simp only [streamAddr, cellAddr, Memory.size]
  omega

theorem receiverOk_command (h : ReceiverOk r) (b : Byte) : ReceiverOk (r.command b) := by
  obtain ⟨hwf, hphase⟩ := h
  unfold Receiver.command
  unfold phaseOk at hphase
  split <;> simp only [*] at hphase
  case h_1 | h_2 => exact receiverOk_startCommand hwf b
  case h_6 => exact ⟨hwf, hphase⟩
  all_goals exact receiverOk_lose r

theorem receiverOk_dataByte (h : ReceiverOk r) (b : Byte) : ReceiverOk (r.dataByte b) := by
  obtain ⟨hwf, hphase⟩ := h
  unfold Receiver.dataByte
  unfold phaseOk at hphase
  split <;> simp only [*] at hphase
  case h_1 got _ => exact receiverOk_takeColumns hwf (by simpa using hphase)
  case h_2 got _ => exact receiverOk_takeRows hwf (by simpa using hphase)
  case h_3 n _ =>
    obtain ⟨hcol, hrow, hn, -⟩ := hphase
    split
    · next hlt => exact ⟨Memory.wf_forget (Memory.wf_forget hwf _) _, hcol, hrow, hn, fun _ => hlt⟩
    · exact receiverOk_lose r
  case h_4 n first _ =>
    obtain ⟨hcol, hrow, -, hlt⟩ := hphase
    have hlt : n < windowCells r.window := hlt nofun
    have haddr := streamAddr_lt hcol hrow hlt
    exact ⟨Memory.wf_write (Memory.wf_write hwf (by omega) _) haddr _, hcol, hrow, hlt, fun h => absurd rfl h⟩
  case h_6 => exact ⟨hwf, hphase⟩
  all_goals exact receiverOk_lose r

theorem receiverOk_accept (h : ReceiverOk r) (rst : Level) (rs : Bool) (b : Byte) : ReceiverOk (r.accept rst rs b) := by
  have hcount : ∀ {r : Receiver} (n : Nat), ReceiverOk r → ReceiverOk { r with strobes := n } := fun _ h => h
  unfold Receiver.accept
  refine hcount _ ?_
  split
  · cases rs
    · exact receiverOk_command h b
    · exact receiverOk_dataByte h b
  · exact receiverOk_lose r

theorem receiverOk_acceptAll (h : ReceiverOk r) (rst : Level) (ws : List (Bool × Byte)) :
    ReceiverOk (acceptAll rst r ws) := by
  induction ws generalizing r with
  | nil => exact h
  | cons w ws ih => exact ih (receiverOk_accept h rst w.1 w.2)

theorem receiverOk_broughtUp (r : Receiver) (n : Nat) : ReceiverOk (r.broughtUp n) := by
  unfold Receiver.broughtUp
  split
  · exact ⟨Memory.wf_nil, trivial⟩
  · exact receiverOk_lose r

theorem receiverOk_receiverAfter (h : ReceiverOk r) (rst : Level) (i : Instr) : ReceiverOk (receiverAfter rst r i) := by
  unfold receiverAfter
  split
  · exact receiverOk_lose r
  · exact ⟨Memory.wf_nil, rfl⟩
  · exact receiverOk_broughtUp _ _
  · exact receiverOk_acceptAll h _ _

end Machine

open Machine

/-- Settles O40: an instruction sends the receiver words, resets it or brings it up, and each keeps its invariant. -/
theorem stepKeepsReceiver : Obligations.StepKeepsReceiver := by
  refine fun s t => step_keeps (fun _ _ hs => hs) (fun i s t hs h => ?_)
  rw [eq_stateAfter_of_exec h]
  exact receiverOk_receiverAfter hs _ i

end Sys2Proof
end

section
/-! Requests and their encodings (rules R50, R54, R59 to R64), and the pins behind the data latches (rules R5, R35). -/

namespace Sys2Proof

/-! ## Wire words (rules R50, R54) -/

theorem decodeWire_build_true (b : Byte) : decodeWire (WireWord.build true b) = .dataWord b := by
  simp [decodeWire]

/-- A command row's opcode decodes to that row. -/
theorem decodeWire_commandRow {row : Byte × Instr} (h : row ∈ commandRows) :
    decodeWire (WireWord.build false row.1) = row.2 := by
  have hfind : ∀ row ∈ commandRows, commandRows.find? (fun r => r.1 == row.1) = some row := by decide
  simp [decodeWire, hfind row h]

theorem decodeWire_build_false {b : Byte} (h : b ∉ rowOpcodes) :
    decodeWire (WireWord.build false b) = .cmdWord b := by
  have hopcodes : ∀ row ∈ commandRows, row.1 ∈ rowOpcodes := by decide
  have hfind : commandRows.find? (fun row => row.1 == b) = none := by
    refine List.find?_eq_none.2 fun row hrow heq => h ?_
    rw [← beq_iff_eq.1 heq]
    exact hopcodes row hrow
  simp [decodeWire, hfind]

/-- Each command row is well-formed and its encoding is the wire word of its opcode. -/
theorem commandRows_encode :
    ∀ row ∈ commandRows, row.2.wellFormed = true ∧ encode row.2 = [.wire (WireWord.build false row.1)] := by decide

/-- Each command row has a word as its encoding, and the word decodes to it. -/
theorem exists_encode_of_commandRow {i : Instr} (h : i ∈ commandRows.map Prod.snd) :
    ∃ r, encode i = [r] ∧ decodeRequest r = .ok i := by
  obtain ⟨row, hrow, rfl⟩ := List.mem_map.1 h
  obtain ⟨-, hencode⟩ := commandRows_encode row hrow
  exact ⟨_, hencode, congrArg Except.ok (decodeWire_commandRow hrow)⟩

/-! ## Frames (rules R59 to R61) -/

/-- Masking a frame masks its fields and clears its reserved bits. -/
theorem Frame.and_build (f : Frame) (op : BitVec 4) (flag : Bool) (a b c e color : U16) (byte : Byte) :
    f &&& Frame.build op flag a b c e color byte =
      Frame.build (f.op &&& op) (f.flag && flag) (f.a &&& a) (f.b &&& b) (f.c &&& c) (f.e &&& e) (f.color &&& color)
        (f.byte &&& byte) := by
  refine BitVec.eq_of_getLsbD_eq fun k hk => ?_
  simp only [Frame.build, Frame.op, Frame.flag, Frame.a, Frame.b, Frame.c, Frame.e, Frame.color, Frame.byte,
    BitVec.getLsbD_and, BitVec.getLsbD_append, BitVec.getLsbD_extractLsb', BitVec.getLsbD_ofBool]
  split_ifs <;> grind

/-- An encoding made of a frame's fields under masks is the frame under the mask built of them. -/
theorem encode_eq_and_usedBits {f : Frame} {i : Instr} {op : BitVec 4} {flag : Bool} {a b c e color : U16} {byte : Byte}
    (hmask : Spec.usedBits f.op.toNat = Frame.build op flag a b c e color byte)
    (hencode : encode i = [.frame (Frame.build (f.op &&& op) (f.flag && flag) (f.a &&& a) (f.b &&& b) (f.c &&& c)
      (f.e &&& e) (f.color &&& color) (f.byte &&& byte))]) :
    encode i = [.frame (f &&& Spec.usedBits f.op.toNat)] := by
  rw [hmask, Frame.and_build, hencode]

theorem usedBits_of_op_ge {n : Nat} (h : 8 ≤ n) : Spec.usedBits n = Frame.build 15 false 0 0 0 0 0 0 := by
  unfold Spec.usedBits
  split
  case h_6 => decide
  all_goals omega

/-- The encoding of what a frame decodes to is the frame with the bits its `OP` does not use cleared (rule R60). -/
theorem encode_decodeFrame (f : Frame) : encode (decodeFrame f) = [.frame (f &&& Spec.usedBits f.op.toNat)] := by
  have hop : ∀ n : Nat, f.op.toNat = n → f.op = BitVec.ofNat 4 n := by
    rintro n rfl
    simp
  have hall : ∀ v : U16, v &&& 65535#16 = v := fun v => BitVec.and_allOnes
  have hallByte : ∀ b : Byte, b &&& 255#8 = b := fun b => BitVec.and_allOnes
  have hallOp : ∀ v : BitVec 4, v &&& 15#4 = v := fun v => BitVec.and_allOnes
  rcases Nat.lt_or_ge f.op.toNat 8 with h | h
  · unfold decodeFrame
    split
    case h_1 h =>
      exact encode_eq_and_usedBits (op := 15) (flag := false) (a := 0) (b := 0) (c := 0) (e := 0) (color := 0)
        (byte := 0) (by rw [h]; decide) (by simp [encode, hop _ h])
    case h_2 h =>
      exact encode_eq_and_usedBits (op := 15) (flag := true) (a := 0) (b := 0) (c := 0) (e := 0) (color := 0)
        (byte := 0xFF) (by rw [h]; decide) (by simp [encode, xferFrame, hop _ h, hallByte])
    case h_3 h =>
      exact encode_eq_and_usedBits (op := 15) (flag := false) (a := 0) (b := 0) (c := 0) (e := 0) (color := 0)
        (byte := 0) (by rw [h]; decide) (by simp [encode, hop _ h])
    case h_4 h =>
      exact encode_eq_and_usedBits (op := 15) (flag := false) (a := 0) (b := 0) (c := 0) (e := 0) (color := 0)
        (byte := 0) (by rw [h]; decide) (by simp [encode, hop _ h])
    case h_5 h =>
      exact encode_eq_and_usedBits (op := 15) (flag := false) (a := 0xFFFF) (b := 0xFFFF) (c := 0xFFFF) (e := 0xFFFF)
        (color := 0) (byte := 0) (by rw [h]; decide) (by simp [encode, hop _ h, hall])
    case h_6 h =>
      exact encode_eq_and_usedBits (op := 15) (flag := false) (a := 0xFFFF) (b := 0xFFFF) (c := 0) (e := 0)
        (color := 0xFFFF) (byte := 0) (by rw [h]; decide) (by simp [encode, hop _ h, hall])
    case h_7 h =>
      exact encode_eq_and_usedBits (op := 15) (flag := false) (a := 0xFFFF) (b := 0xFFFF) (c := 0xFFFF) (e := 0xFFFF)
        (color := 0xFFFF) (byte := 0) (by rw [h]; decide) (by simp [encode, hop _ h, hall])
    case h_8 h =>
      exact encode_eq_and_usedBits (op := 15) (flag := true) (a := 0xFFFF) (b := 0xFFFF) (c := 0xFFFF) (e := 0)
        (color := 0xFFFF) (byte := 0) (by rw [h]; decide) (by simp [encode, hop _ h, hall])
    case h_9 => grind
  · rw [decodeFrame_of_op_ge h]
    exact encode_eq_and_usedBits (usedBits_of_op_ge h) (by simp [encode, hallOp])

/-- What a frame decodes to is well-formed and no pseudo-operation (rules R61, R64). -/
theorem decodeFrame_wellFormed (f : Frame) :
    (decodeFrame f).wellFormed = true ∧ (decodeFrame f).isPseudo = false := by
  rcases Nat.lt_or_ge f.op.toNat 8 with h | h
  · unfold decodeFrame
    generalize f.op.toNat = op at h ⊢
    interval_cases op <;> exact ⟨rfl, rfl⟩
  · rw [decodeFrame_of_op_ge h]
    exact ⟨by simpa [Instr.wellFormed] using h, rfl⟩

namespace Machine

variable {s : State}

/-! ## Pseudo-operations (rule R64) -/

/-- The frame of `XFER` decodes to it. -/
theorem decodeFrame_xferFrame (b : Byte) (d : Bool) : decodeFrame (xferFrame b d) = .xfer b d := by
  simp [decodeFrame, xferFrame]

/-- A step that takes the frame of a transfer is the transfer. -/
theorem step_xferFrame {b : Byte} {d : Bool} {rest : List Request} :
    step { s with pending := .frame (xferFrame b d) :: rest } = transfer hardware d b { s with pending := rest } := by
  have hd : decodeRequest (.frame (xferFrame b d)) = .ok (.xfer b d) := congrArg Except.ok (decodeFrame_xferFrame b d)
  exact step_of_decodeRequest rfl hd

theorem run_succ_of_step {n : Nat} {t : State} (h : step s = .next t) :
    Host.Core.run core (n + 1) s = Host.Core.run core n t := by
  simp only [Host.Core.run, show core.step s = .next t from h]

/-- Performing the frames of data bytes one after another is the bus writes in a row, with a status for each. -/
theorem run_dataFrames (bytes : List Byte) (rest : List Request) (hcfg : s.cfg = true) :
    Host.Core.run core bytes.length { s with pending := encode (.dataBytes bytes) ++ rest } =
      .next { busWrites hardware (bytes.map dataWord) s with
        pending := rest, returns := s.returns ++ List.replicate bytes.length .ok } := by
  induction bytes generalizing s with
  | nil => simp [Host.Core.run, encode, busWrites]
  | cons b bs ih =>
    have hstep : step { s with pending := encode (.dataBytes (b :: bs)) ++ rest } =
        transfer hardware true b { s with pending := encode (.dataBytes bs) ++ rest } := step_xferFrame
    have ih' := ih (s := { busWrite hardware true b s with returns := s.returns ++ [.ok] })
      (by simpa [busWrite_eq] using hcfg)
    rw [transfer_of_cfg (s := { s with pending := encode (.dataBytes bs) ++ rest }) hcfg, busWrite_eq] at hstep
    rw [busWrite_eq] at ih'
    rw [List.length_cons, run_succ_of_step hstep]
    refine ih'.trans ?_
    simp [busWrites_eq, acceptAll_cons, dataWord, List.replicate_succ]

/-- The roles have positions of their own. -/
theorem index_injective : Function.Injective PinRole.index := by
  intro p q h
  cases p <;> cases q <;> simp only [PinRole.index] at h <;> first | rfl | omega | (congr 1; omega)

end Machine

open Machine

/-- Settles O53: each field of a built frame is what it was built from, and each wire row is found by its own word. -/
theorem decodeOfEncode : Obligations.DecodeOfEncode := by
  intro i hwf hpseudo
  have hframe : ∀ {f : Frame}, encode i = [.frame f] → decodeFrame f = i →
      ∃ r, encode i = [r] ∧ decodeRequest r = .ok i :=
    fun h hd => ⟨_, h, congrArg Except.ok hd⟩
  cases i
  case cmd | data | dataBytes => cases hpseudo
  case reservedOp op =>
    have hop : 8 ≤ op.toNat := by simpa [Instr.wellFormed] using hwf
    exact hframe rfl (by rw [decodeFrame_of_op_ge (by rwa [Frame.op_build]), Frame.op_build])
  case dataWord b => exact ⟨_, rfl, congrArg Except.ok (decodeWire_build_true b)⟩
  case cmdWord b =>
    exact ⟨_, rfl, congrArg Except.ok (decodeWire_build_false (by simpa [Instr.wellFormed] using hwf))⟩
  case configure | xfer | reset | init | setWin | pixel | line | rect =>
    exact hframe rfl (by simp [decodeFrame, xferFrame])
  all_goals exact exists_encode_of_commandRow (by decide)

/-- Settles O55: the encoding of what the frame decodes to is the masked frame, and encodings decode back. -/
theorem unlistedFieldsIgnored : Obligations.UnlistedFieldsIgnored := by
  intro f
  have hencode := encode_decodeFrame f
  obtain ⟨hwf, hpseudo⟩ := decodeFrame_wellFormed f
  obtain ⟨r, hr, hdecode⟩ := decodeOfEncode _ hwf hpseudo
  rw [hencode] at hr
  obtain rfl := List.singleton_injective hr
  exact ⟨(Except.ok.inj hdecode).symm, hencode⟩

/-- Settles O57: the frames' bus writes in a row are the operation's; the frame of `CMD` or `DATA` is its transfer. -/
theorem pseudoOperationsExpand : Obligations.PseudoOperationsExpand := by
  rintro s bytes rest hcfg rfl
  refine ⟨_, _, whenConfigured_of_cfg hcfg _, run_dataFrames bytes s.pending hcfg, ?_, fun b => ⟨?_, ?_⟩⟩
  · rw [busWrites_eq]
  · exact step_xferFrame
  · exact step_xferFrame

/-- Settles O51: the step's two cases are its definition's. -/
theorem stepRunsDecodedRequest : Obligations.StepRunsDecodedRequest :=
  fun s => ⟨fun h => by simp only [step, h], fun _ _ _ => step_of_decodeRequest⟩

/-- Settles O52: each written word is evaluated by the decoder. -/
theorem writtenWordsDecode : Obligations.WrittenWordsDecode := by
  unfold Obligations.WrittenWordsDecode
  decide

/-- Settles O54: a word with `RS` high is a data word; another has a row of its own, or is the generic command's. -/
theorem everyWireWordIsItsRow : Obligations.EveryWireWordIsItsRow := by
  intro w
  obtain ⟨rs, b, rfl⟩ : ∃ rs b, w = WireWord.build rs b := ⟨_, _, w.build_rs_byte.symm⟩
  cases rs with
  | true => exact ⟨by rw [decodeWire_build_true]; rfl, by rw [decodeWire_build_true]; rfl⟩
  | false =>
    by_cases hb : b ∈ rowOpcodes
    · obtain ⟨row, hrow, rfl⟩ : ∃ row ∈ commandRows, row.1 = b := by
        have hrows : rowOpcodes = commandRows.map Prod.fst := by decide
        rwa [hrows, List.mem_map] at hb
      rw [decodeWire_commandRow hrow]
      exact commandRows_encode row hrow
    · rw [decodeWire_build_false hb]
      exact ⟨by simpa [Instr.wellFormed] using hb, rfl⟩

/-- Settles O58: the identities are a permutation's values at distinct positions. -/
theorem dataBitsGoToTheirPins : Obligations.DataBitsGoToTheirPins :=
  fun c => ⟨c.pins.injective.comp index_injective, fun _ => rfl⟩

end Sys2Proof
end

section
/-! The general line (rules R104, R107 to R109; decision D16). The loop is followed with `dx >= dy`, where it steps
along `x` at every turn; the other lines are its mirror images with the axes exchanged. -/

namespace Sys2Proof

namespace Machine

variable {dx dy sx sy x2 y2 : Int}

/-! ## The points along the longer axis -/

/-- The point `j` steps before the end of a line with `dx >= dy`: the steps along `y` still due are the quotient, and
the error is the remainder, of `dx / 2 + j * dy` by `dx`. -/
def linePoint (dx dy sx sy x2 y2 : Int) (j : Nat) : Int × Int :=
  (x2 - sx * j, y2 - sy * ((dx / 2 + j * dy) / dx))

/-- The last `r + 1` points of a line with `dx >= dy`. -/
def linePoints (dx dy sx sy x2 y2 : Int) (r : Nat) : List (Int × Int) :=
  (List.range (r + 1)).map fun k => linePoint dx dy sx sy x2 y2 (r - k)

theorem linePoints_succ (r : Nat) :
    linePoints dx dy sx sy x2 y2 (r + 1) =
      linePoint dx dy sx sy x2 y2 (r + 1) :: linePoints dx dy sx sy x2 y2 r := by
  simp [linePoints, List.range_succ_eq_map (n := r + 1), Function.comp_def]

theorem linePoints_length (r : Nat) : (linePoints dx dy sx sy x2 y2 r).length = r + 1 := by simp [linePoints]

theorem linePoints_head? (r : Nat) :
    (linePoints dx dy sx sy x2 y2 r).head? = some (linePoint dx dy sx sy x2 y2 r) := by
  simp [linePoints, List.range_succ_eq_map]

theorem linePoints_getLast? (r : Nat) :
    (linePoints dx dy sx sy x2 y2 r).getLast? = some (linePoint dx dy sx sy x2 y2 0) := by
  simp [linePoints, List.range_succ]

theorem linePoint_zero (hdx : 0 < dx) : linePoint dx dy sx sy x2 y2 0 = (x2, y2) := by
  have h : dx / 2 / dx = 0 := Int.ediv_eq_zero_of_lt (by omega) (by omega)
  simp [linePoint, h]

theorem linePoint_start (hdx : 0 < dx) :
    linePoint dx dy sx sy x2 y2 dx.toNat = (x2 - sx * dx, y2 - sy * dy) := by
  have h : (dx / 2 + dx * dy) / dx = dy := by
    rw [Int.add_mul_ediv_left _ _ hdx.ne', Int.ediv_eq_zero_of_lt (by omega) (by omega), zero_add]
  simp [linePoint, Int.toNat_of_nonneg hdx.le, h]

/-- The steps along `y` still due are never negative, nor more than there are in all. -/
theorem due_bounds (hdx : 0 < dx) (hdy : 0 ≤ dy) {j : Nat} (hj : (j : Int) ≤ dx) :
    0 ≤ (dx / 2 + j * dy) / dx ∧ (dx / 2 + j * dy) / dx ≤ dy := by
  have hprod : 0 ≤ (j : Int) * dy := by positivity
  have hle : (j : Int) * dy ≤ dx * dy := mul_le_mul_of_nonneg_right hj hdy
  refine ⟨Int.ediv_nonneg (by omega) hdx.le, Int.lt_add_one_iff.1 (Int.ediv_lt_of_lt_mul hdx ?_)⟩
  linarith [mul_comm dx dy, show dx / 2 < dx by omega]

/-- With `dx >= dy` the loop plots the points of `linePoints`, the error being the remainder. -/
theorem plots_linePoints (hdx : 0 < dx) (hle : dy ≤ dx) (hdy : 0 ≤ dy) (hsx : sx ≠ 0) (r : Nat) :
    Spec.Plots dx dy sx sy x2 y2 (linePoint dx dy sx sy x2 y2 r).1 (linePoint dx dy sx sy x2 y2 r).2
      ((dx / 2 + r * dy) % dx) (linePoints dx dy sx sy x2 y2 r) := by
  induction r with
  | zero =>
    have hlist : linePoints dx dy sx sy x2 y2 0 = [(x2, y2)] := by simp [linePoints, linePoint_zero hdx]
    rw [hlist, linePoint_zero hdx]
    exact .last _
  | succ r ih =>
    rw [linePoints_succ]
    refine .more _ _ _ _ (fun h => ?_) ?_
    · have hzero : sx * ((r : Int) + 1) = 0 := by
        have := h.1
        simp only [linePoint] at this
        push_cast at this
        omega
      exact (mul_ne_zero hsx (by omega)) hzero
    · set q := (dx / 2 + ((r + 1 : Nat) : Int) * dy) / dx with hq
      set err := (dx / 2 + ((r + 1 : Nat) : Int) * dy) % dx with herr
      have hsplit : err + dx * q = dx / 2 + ((r + 1 : Nat) : Int) * dy := Int.emod_add_mul_ediv _ _
      have hnonneg : 0 ≤ err := Int.emod_nonneg _ hdx.ne'
      have hlt : err < dx := Int.emod_lt_of_pos _ hdx
      have hstep : err > -dx := by omega
      push_cast at hsplit
      have hnext : (dx / 2 + (r : Int) * dy) / dx = (if err < dy then q - 1 else q) ∧
          (dx / 2 + (r : Int) * dy) % dx = (err - dy) + if err < dy then dx else 0 := by
        rw [Int.ediv_emod_unique hdx]
        split_ifs with h
        · exact ⟨by linarith, by omega, by omega⟩
        · exact ⟨by linarith, by omega, by omega⟩
      rw [hnext.2] at ih
      simp only [linePoint, hnext.1, ← hq] at ih ⊢
      rw [if_pos hstep, if_pos hstep]
      convert ih using 1
      · push_cast; ring
      · split_ifs <;> ring

/-- The loop with the axes exchanged and the error negated plots the same points, exchanged. -/
theorem plots_swap {cx cy err : Int} {pts : List (Int × Int)} (h : Spec.Plots dx dy sx sy x2 y2 cx cy err pts) :
    Spec.Plots dy dx sy sx y2 x2 cy cx (-err) (pts.map Prod.swap) := by
  induction h with
  | last err => exact .last _
  | more cx cy err rest hmore hrest ih =>
    refine .more _ _ _ _ (fun h => hmore h.symm) ?_
    convert ih using 1 <;> split_ifs <;> omega

/-- The model's loop gives the points that the relation plots, when its fuel suffices for them. -/
theorem lineLoop_of_plots {cx cy err : Int} {pts : List (Int × Int)} (h : Spec.Plots dx dy sx sy x2 y2 cx cy err pts) :
    ∀ {fuel : Nat}, pts.length ≤ fuel → lineLoop dx dy sx sy x2 y2 fuel cx cy err = pts := by
  induction h with
  | last err =>
    rintro (_ | fuel) hfuel
    · simp at hfuel
    · simp [lineLoop]
  | more cx cy err rest hmore hrest ih =>
    rintro (_ | fuel) hfuel
    · simp at hfuel
    · rw [lineLoop, if_neg hmore, ← ih (Nat.le_of_succ_le_succ hfuel)]
      congr 2
      by_cases hstepX : err > -dx <;> by_cases hstepY : err < dy <;> simp [hstepX, hstepY]

/-- What the loop plots from a point on is determined. -/
theorem plots_unique {cx cy err : Int} {pts pts' : List (Int × Int)} (h : Spec.Plots dx dy sx sy x2 y2 cx cy err pts)
    (h' : Spec.Plots dx dy sx sy x2 y2 cx cy err pts') : pts = pts' :=
  (lineLoop_of_plots h (le_max_left _ _)).symm.trans (lineLoop_of_plots h' (le_max_right pts.length _))

/-! ## The general line (rules R104, R109) -/

section

variable {c : Config} {x1 y1 x2 y2 : Nat}

/-- The points of a general line: along the longer axis, or the mirror image of such a line. -/
def generalPoints (x1 y1 x2 y2 : Nat) : List (Int × Int) :=
  let dx : Int := |(x2 : Int) - x1|
  let dy : Int := |(y2 : Int) - y1|
  if dx > dy then linePoints dx dy ((x2 : Int) - x1).sign ((y2 : Int) - y1).sign x2 y2 dx.toNat
  else (linePoints dy dx ((y2 : Int) - y1).sign ((x2 : Int) - x1).sign y2 x2 dy.toNat).map Prod.swap

/-- From its first point on, a line with `dx >= dy` is plotted whole. -/
theorem plots_from_start {dx dy sx sy x2 y2 : Int} (hdx : 0 < dx) (hle : dy ≤ dx) (hdy : 0 ≤ dy) (hsx : sx ≠ 0) :
    Spec.Plots dx dy sx sy x2 y2 (x2 - sx * dx) (y2 - sy * dy) (dx.tdiv 2)
      (linePoints dx dy sx sy x2 y2 dx.toNat) := by
  have herr : (dx / 2 + (dx.toNat : Int) * dy) % dx = dx.tdiv 2 := by
    rw [Int.toNat_of_nonneg hdx.le, Int.add_mul_emod_self_left, Int.emod_eq_of_lt (by omega) (by omega),
      Int.tdiv_eq_ediv_of_nonneg hdx.le]
  have h := plots_linePoints (sy := sy) (x2 := x2) (y2 := y2) hdx hle hdy hsx dx.toNat
  rwa [linePoint_start hdx, herr] at h

theorem sub_sign_mul_abs (a b : Nat) : (b : Int) - ((b : Int) - a).sign * |(b : Int) - a| = a := by
  rw [Int.sign_mul_abs]; ring

theorem generalLine_generalPoints (hx : x1 ≠ x2) (hy : y1 ≠ y2) :
    Spec.GeneralLine x1 y1 x2 y2 (generalPoints x1 y1 x2 y2) := by
  have hdx : 0 < |(x2 : Int) - x1| := abs_pos.2 (by omega)
  have hdy : 0 < |(y2 : Int) - y1| := abs_pos.2 (by omega)
  have hsx : ((x2 : Int) - x1).sign ≠ 0 := by rw [Ne, Int.sign_eq_zero_iff_zero]; omega
  have hsy : ((y2 : Int) - y1).sign ≠ 0 := by rw [Ne, Int.sign_eq_zero_iff_zero]; omega
  simp only [Spec.GeneralLine, generalPoints]
  split_ifs with h
  · have hplots := plots_from_start (sy := ((y2 : Int) - y1).sign) (x2 := x2) (y2 := y2) hdx h.le hdy.le hsx
    rwa [sub_sign_mul_abs, sub_sign_mul_abs] at hplots
  · have hplots := plots_from_start (sy := ((x2 : Int) - x1).sign) (x2 := y2) (y2 := x2) hdy (not_lt.1 h) hdx.le hsy
    rw [sub_sign_mul_abs, sub_sign_mul_abs] at hplots
    rw [Int.neg_tdiv]
    exact plots_swap hplots

theorem generalPoints_length (x1 y1 x2 y2 : Nat) :
    ((generalPoints x1 y1 x2 y2).length : Int) = max |(x2 : Int) - x1| |(y2 : Int) - y1| + 1 := by
  have hdx := abs_nonneg ((x2 : Int) - x1)
  have hdy := abs_nonneg ((y2 : Int) - y1)
  unfold generalPoints
  simp only
  split_ifs with h
  · rw [linePoints_length, max_eq_left h.le]
    omega
  · rw [List.length_map, linePoints_length, max_eq_right (not_lt.1 h)]
    omega

theorem sign_eq (a : Int) : sign a = a.sign := by
  unfold sign
  split_ifs with h1 h2
  · exact (Int.sign_eq_one_of_pos h1).symm
  · exact (Int.sign_eq_neg_one_of_neg h2).symm
  · rw [show a = 0 by omega, Int.sign_zero]

/-- A general line that is drawn is the points that the loop plots (rule R104). -/
theorem generalLine_eq (hx : x1 ≠ x2) (hy : y1 ≠ y2)
    (hdraw : |(x2 : Int) - x1| > |(y2 : Int) - y1| ∨ c.lineSteep = .corrected) :
    generalLine c x1 y1 x2 y2 = generalPoints x1 y1 x2 y2 := by
  have hfuel : (generalPoints x1 y1 x2 y2).length ≤ (|(x2 : Int) - x1| + |(y2 : Int) - y1| + 1).toNat := by
    have hlength := generalPoints_length x1 y1 x2 y2
    have hdx := abs_nonneg ((x2 : Int) - x1)
    have hdy := abs_nonneg ((y2 : Int) - y1)
    omega
  simp only [generalLine, if_pos hdraw, sign_eq]
  exact lineLoop_of_plots (generalLine_generalPoints hx hy) hfuel

theorem lineTouches_of_general (hx : x1 ≠ x2) (hy : y1 ≠ y2) :
    lineTouches c x1 y1 x2 y2 = Spec.cells (generalLine c x1 y1 x2 y2) := by
  rw [lineTouches, if_neg hx, if_neg hy]
  rfl

theorem lineTouches_of_drawn (hx : x1 ≠ x2) (hy : y1 ≠ y2)
    (hdraw : |(x2 : Int) - x1| > |(y2 : Int) - y1| ∨ c.lineSteep = .corrected) :
    lineTouches c x1 y1 x2 y2 = Spec.cells (generalPoints x1 y1 x2 y2) := by
  rw [lineTouches_of_general hx hy, generalLine_eq hx hy hdraw]

/-- A general line that is not drawn touches nothing (rule R108). -/
theorem lineTouches_of_not_drawn (hx : x1 ≠ x2) (hy : y1 ≠ y2)
    (hdraw : ¬(|(x2 : Int) - x1| > |(y2 : Int) - y1| ∨ c.lineSteep = .corrected)) :
    lineTouches c x1 y1 x2 y2 = [] := by
  rw [lineTouches_of_general hx hy, generalLine]
  simp only [if_neg hdraw]
  rfl

/-! ## Ends and box (rule R109) -/

theorem generalPoints_ends (hx : x1 ≠ x2) (hy : y1 ≠ y2) :
    (generalPoints x1 y1 x2 y2).head? = some (↑x1, ↑y1) ∧ (generalPoints x1 y1 x2 y2).getLast? = some (↑x2, ↑y2) := by
  have hdx : 0 < |(x2 : Int) - x1| := abs_pos.2 (by omega)
  have hdy : 0 < |(y2 : Int) - y1| := abs_pos.2 (by omega)
  unfold generalPoints
  simp only
  split_ifs
  · rw [linePoints_head?, linePoints_getLast?, linePoint_start hdx, linePoint_zero hdx, sub_sign_mul_abs,
      sub_sign_mul_abs]
    exact ⟨rfl, rfl⟩
  · rw [List.head?_map, List.getLast?_map, linePoints_head?, linePoints_getLast?, linePoint_start hdy,
      linePoint_zero hdy, sub_sign_mul_abs, sub_sign_mul_abs]
    exact ⟨rfl, rfl⟩

/-- A point of a line is some steps before its end on each axis, no more than there are in all. -/
theorem mem_linePoints {dx dy sx sy x2 y2 : Int} (hdx : 0 < dx) (hdy : 0 ≤ dy) {p : Int × Int}
    (hp : p ∈ linePoints dx dy sx sy x2 y2 dx.toNat) :
    ∃ j q : Int, 0 ≤ j ∧ j ≤ dx ∧ 0 ≤ q ∧ q ≤ dy ∧ p = (x2 - sx * j, y2 - sy * q) := by
  obtain ⟨k, -, rfl⟩ := List.mem_map.1 hp
  have hj : ((dx.toNat - k : Nat) : Int) ≤ dx := by omega
  obtain ⟨hq, hq'⟩ := due_bounds hdx hdy hj
  exact ⟨_, _, by omega, hj, hq, hq', rfl⟩

theorem mem_generalPoints (hx : x1 ≠ x2) (hy : y1 ≠ y2) {p : Int × Int} (hp : p ∈ generalPoints x1 y1 x2 y2) :
    ∃ j q : Int, 0 ≤ j ∧ j ≤ |(x2 : Int) - x1| ∧ 0 ≤ q ∧ q ≤ |(y2 : Int) - y1| ∧
      p = (x2 - ((x2 : Int) - x1).sign * j, y2 - ((y2 : Int) - y1).sign * q) := by
  have hdx : 0 < |(x2 : Int) - x1| := abs_pos.2 (by omega)
  have hdy : 0 < |(y2 : Int) - y1| := abs_pos.2 (by omega)
  unfold generalPoints at hp
  simp only at hp
  split_ifs at hp
  · exact mem_linePoints hdx hdy.le hp
  · obtain ⟨p', hmem, rfl⟩ := List.mem_map.1 hp
    obtain ⟨j, q, hj, hj', hq, hq', rfl⟩ := mem_linePoints hdy hdx.le hmem
    exact ⟨q, j, hq, hq', hj, hj', rfl⟩

/-- Some steps back from `b` towards `a`, no further than `a`: as coordinates, the steps are up or down. -/
theorem toNat_sub_sign_mul {a b : Nat} (h : a ≠ b) {j : Int} (hj : 0 ≤ j) (hj' : j ≤ |(b : Int) - a|) :
    ((b : Int) - ((b : Int) - a).sign * j).toNat = if a < b then b - j.toNat else b + j.toNat := by
  rcases lt_or_gt_of_ne h with h | h
  · rw [Int.sign_eq_one_of_pos (by omega), if_pos h]
    rw [abs_of_pos (by omega)] at hj'
    omega
  · rw [Int.sign_eq_neg_one_of_neg (by omega), if_neg (by omega)]
    omega

theorem between_of_steps {a b : Nat} (h : a ≠ b) {j : Int} (hj : 0 ≤ j) (hj' : j ≤ |(b : Int) - a|) :
    min a b ≤ ((b : Int) - ((b : Int) - a).sign * j).toNat ∧
      ((b : Int) - ((b : Int) - a).sign * j).toNat ≤ max a b := by
  rw [toNat_sub_sign_mul h hj hj']
  rcases lt_or_gt_of_ne h with h | h
  · rw [abs_of_pos (by omega)] at hj'
    rw [if_pos h]
    omega
  · rw [abs_of_neg (by omega)] at hj'
    rw [if_neg (by omega)]
    omega

/-- A general line stays in the rectangle its end points span. -/
theorem mem_cells_generalPoints (hx : x1 ≠ x2) (hy : y1 ≠ y2) {p : Nat × Nat}
    (hp : p ∈ Spec.cells (generalPoints x1 y1 x2 y2)) :
    min x1 x2 ≤ p.1 ∧ p.1 ≤ max x1 x2 ∧ min y1 y2 ≤ p.2 ∧ p.2 ≤ max y1 y2 := by
  obtain ⟨p', hmem, rfl⟩ := List.mem_map.1 hp
  obtain ⟨j, q, hj, hj', hq, hq', rfl⟩ := mem_generalPoints hx hy hmem
  obtain ⟨hlow, hhigh⟩ := between_of_steps hx hj hj'
  obtain ⟨hlow', hhigh'⟩ := between_of_steps hy hq hq'
  exact ⟨hlow, hhigh, hlow', hhigh'⟩

/-- A line between in-frame end points touches in-frame cells only, in every case. -/
theorem inFrame_of_mem_lineTouches (h1 : Spec.InFrame x1 y1) (h2 : Spec.InFrame x2 y2) {p : Nat × Nat}
    (hp : p ∈ lineTouches c x1 y1 x2 y2) : Spec.InFrame p.1 p.2 := by
  by_cases hst : x1 = x2 ∨ y1 = y2
  · rw [lineTouches_of_straight hst] at hp
    exact inFrame_of_mem_straightRun h1 h2 hp
  · obtain ⟨hx, hy⟩ := not_or.1 hst
    by_cases hdraw : |(x2 : Int) - x1| > |(y2 : Int) - y1| ∨ c.lineSteep = .corrected
    · rw [lineTouches_of_drawn hx hy hdraw] at hp
      obtain ⟨-, hx', -, hy'⟩ := mem_cells_generalPoints hx hy hp
      obtain ⟨hx1, hy1⟩ := h1
      obtain ⟨hx2, hy2⟩ := h2
      omega
    · rw [lineTouches_of_not_drawn hx hy hdraw] at hp
      cases hp

/-- Along `x` a line with `dx > dy` takes every column once, from the first to the last. -/
theorem map_fst_cells_generalPoints (hx : x1 ≠ x2) (h : |(x2 : Int) - x1| > |(y2 : Int) - y1|) :
    (Spec.cells (generalPoints x1 y1 x2 y2)).map Prod.fst =
      (List.range (max x1 x2 - min x1 x2 + 1)).map fun k => if x1 < x2 then x1 + k else x1 - k := by
  have hsteps : |(x2 : Int) - x1| = (max x1 x2 - min x1 x2 : Nat) := by
    rcases lt_or_gt_of_ne hx with h | h
    · rw [abs_of_pos (by omega)]; omega
    · rw [abs_of_neg (by omega)]; omega
  unfold generalPoints
  simp only [if_pos h]
  rw [Spec.cells, linePoints, List.map_map, List.map_map, hsteps, Int.toNat_natCast]
  refine List.map_congr_left fun k hk => ?_
  have hk := List.mem_range.1 hk
  simp only [Function.comp, linePoint]
  rw [toNat_sub_sign_mul hx (by omega) (by omega)]
  split_ifs <;> omega

end

/-! ## LINE (rule R104) -/

/-- A ready `LINE` comes to what the spec says of it, in every case and under both values of `LINE_STEEP`. -/
theorem line_outcome {c : Config} {steep : Bool} (hstrobe : c.tStrobeUs = 1) (hc : c.pixelLowByte = .reference)
    (hsteep : c.lineSteep = .corrected ↔ steep = true) {s : State} (hs : Spec.Ready s) (x1 y1 x2 y2 color : U16) :
    Spec.LineOutcome steep x1.toNat y1.toNat x2.toNat y2.toNat color.toNat s (line c x1 y1 x2 y2 color s) := by
  by_cases hf : Spec.InFrame x1.toNat y1.toNat ∧ Spec.InFrame x2.toNat y2.toNat
  case neg =>
    rw [Spec.LineOutcome, if_pos hf]
    exact line_of_outOfFrame hs hf
  obtain ⟨h1, h2⟩ := hf
  obtain ⟨t, ht, hsent⟩ := line_sends (color := color) hc hs h1 h2 fun p => inFrame_of_mem_lineTouches h1 h2
  rw [hstrobe] at hsent
  rw [Spec.LineOutcome, if_neg (not_not.2 ⟨h1, h2⟩)]
  split_ifs with hx hy hdraw
  · rw [lineTouches_of_straight (.inl hx), straightRun, if_pos hx] at hsent
    exact ⟨t, ht, hsent⟩
  · rw [lineTouches_of_straight (.inr hy), straightRun, if_neg hx] at hsent
    exact ⟨t, ht, hsent⟩
  · rw [lineTouches_of_drawn hx hy (hdraw.imp_right hsteep.2)] at hsent
    exact ⟨_, t, generalLine_generalPoints hx hy, ht, hsent⟩
  · have hempty := lineTouches_of_not_drawn (c := c) hx hy fun h => hdraw (h.imp_right hsteep.1)
    rw [line, whenReady_of_ready hs, drawLine_of_inFrame (inFrame_and_iff.2 ⟨h1, h2⟩), hempty]
    rfl

end Machine

open Machine

/-- Settles O15: the model's touch list is the spec's in each case of rule R104, and in frame. -/
theorem lineDrawsItsTouchList : Obligations.LineDrawsItsTouchList := by
  intro s x1 y1 x2 y2 color
  exact ⟨whenReady_of_not, whenReady_of_lc_ne,
    fun hs => line_outcome (c := hardware) (steep := false) rfl rfl ⟨nofun, nofun⟩ hs x1 y1 x2 y2 color,
    fun hs => line_outcome (c := { hardware with lineSteep := .corrected }) (steep := true) rfl rfl
      ⟨fun _ => rfl, fun _ => rfl⟩ hs x1 y1 x2 y2 color⟩

/-- Settles O17: a slanted line's outcome under each value of `LINE_STEEP`, and the number of its points. -/
theorem steepLineGap : Obligations.SteepLineGap := by
  intro s x1 y1 x2 y2 color hs h1 h2 hx hy
  have hx : x1.toNat ≠ x2.toNat := BitVec.toNat_ne.1 hx
  have hy : y1.toNat ≠ y2.toNat := BitVec.toNat_ne.1 hy
  obtain ⟨-, -, hreference, hcorrected⟩ := lineDrawsItsTouchList s x1 y1 x2 y2 color
  refine ⟨fun hsteep => ?_, ?_⟩
  · have houtcome := hreference hs
    rwa [Spec.LineOutcome, if_neg (not_not.2 ⟨h1, h2⟩), if_neg hx, if_neg hy,
      if_neg (by simpa using hsteep)] at houtcome
  · have houtcome := hcorrected hs
    rw [Spec.LineOutcome, if_neg (not_not.2 ⟨h1, h2⟩), if_neg hx, if_neg hy, if_pos (.inr rfl)] at houtcome
    obtain ⟨pts, t, hpts, ht, hsent⟩ := houtcome
    refine ⟨pts, t, hpts, ht, hsent, ?_⟩
    rw [plots_unique hpts (generalLine_generalPoints hx hy), generalPoints_length]

/-- Settles O18: the loop's points are the explicit ones of `generalPoints`, whose length, ends and box are theirs. -/
theorem generalLineStaysInItsBox : Obligations.GeneralLineStaysInItsBox := by
  intro c x1 y1 x2 y2 hx hy
  split_ifs with hdraw
  · have htouches := lineTouches_of_drawn hx hy hdraw
    obtain ⟨hhead, hlast⟩ := generalPoints_ends hx hy
    rw [htouches]
    refine ⟨⟨_, generalLine_generalPoints hx hy, fun pts' h => plots_unique h (generalLine_generalPoints hx hy),
      generalLine_eq hx hy hdraw, rfl⟩, ?_, ?_, ?_, fun p => mem_cells_generalPoints hx hy⟩
    · rw [Spec.cells, List.length_map, generalPoints_length]
    · rw [Spec.cells, List.head?_map, hhead]; rfl
    · rw [Spec.cells, List.getLast?_map, hlast]; rfl
  · exact lineTouches_of_not_drawn hx hy hdraw

/-- Settles O19: the `x` coordinate of each point is one step from the one before. -/
theorem shallowLineOnePixelPerColumn : Obligations.ShallowLineOnePixelPerColumn := by
  intro c x1 y1 x2 y2 hy h
  have hx : x1 ≠ x2 := by
    rintro rfl
    rw [sub_self, abs_zero] at h
    exact absurd h (not_lt.2 (abs_nonneg _))
  rw [lineTouches_of_drawn hx hy (.inl h)]
  exact map_fst_cells_generalPoints hx h

end Sys2Proof
end

section
/-! What instructions send, how long it takes, and what they leave alone (rules R18, R22, R31, R93, R141, R150): counts
of words and of delays, the writers of each field, the bring-up, and that ghost state is never read. -/

namespace Sys2Proof

namespace Machine

variable {s t : State} {i : Instr}

/-! ## Words and counts of events in a row -/

theorem wordsFrom_flatMap {α : Type} {f : α → List Event} {g : α → List (Bool × Byte)}
    (h : ∀ x ls, wordsFrom ls (f x) = g x) (xs : List α) (ls : Latches) :
    wordsFrom ls (xs.flatMap f) = xs.flatMap g := by
  induction xs generalizing ls with
  | nil => rfl
  | cons x xs ih => rw [List.flatMap_cons, List.flatMap_cons, wordsFrom_append, h, ih]

theorem wordsFrom_entryEvents (c : Config) (e : ScriptEntry) (ls : Latches) :
    wordsFrom ls (entryEvents c e) = entryWords e := by
  rw [entryEvents, wordsFrom_append, wordsFrom_flatMap fun w ls => wordsFrom_wordEvents c ls w, List.flatMap_singleton']
  split <;> simp [wordsFrom]

/-- A count of events that counts each bus write of this hardware once, and no report. -/
structure CountsWords (m : List Event → Nat) : Prop where
  nil : m [] = 0
  append : ∀ es es', m (es ++ es') = m es + m es'
  word : ∀ w, m (wordEvents hardware w) = 1
  report : ∀ r, m [.report r] = 0

theorem countsWords_strobeCount : CountsWords strobeCount :=
  ⟨rfl, strobeCount_append, strobeCount_wordEvents hardware, fun _ => rfl⟩

/-- On this hardware a bus write takes one microsecond. -/
theorem countsWords_minDuration : CountsWords minDuration :=
  ⟨rfl, minDuration_append, minDuration_wordEvents hardware, fun _ => rfl⟩

section

variable {m : List Event → Nat}

theorem CountsWords.flatMap (hm : CountsWords m) {α : Type} (f : α → List Event) (xs : List α) :
    m (xs.flatMap f) = (xs.map fun x => m (f x)).sum := by
  induction xs with
  | nil => exact hm.nil
  | cons x xs ih => rw [List.flatMap_cons, hm.append, ih, List.map_cons, List.sum_cons]

theorem CountsWords.actions (hm : CountsWords m) (as : List Action) :
    m (as.flatMap Action.events) = (actionWords as).length := by
  induction as with
  | nil => exact hm.nil
  | cons a as ih =>
    rw [List.flatMap_cons, hm.append, ih]
    cases a with
    | word w => rw [Action.events, hm.word, actionWords_word, List.length_cons, Nat.add_comm]
    | raise info => rw [Action.events, hm.report, actionWords_raise, Nat.zero_add]

theorem CountsWords.words (hm : CountsWords m) (ws : List (Bool × Byte)) :
    m (ws.flatMap (wordEvents hardware)) = ws.length := by
  rw [hm.flatMap, List.map_congr_left fun w _ => hm.word w]
  simp

theorem CountsWords.entry (hm : CountsWords m) (e : ScriptEntry) :
    m (entryEvents hardware e) = 1 + e.payload.length + m (if e.waitUs > 0 then [.delay e.waitUs] else []) := by
  rw [entryEvents, hm.append, hm.words, entryWords, List.length_cons, List.length_map, Nat.add_comm 1]

/-- The count of an instruction other than `CONFIGURE`, `RESET` and `INIT` is that of the words it sends. -/
theorem CountsWords.of_actions (hm : CountsWords m) (hc : i ≠ .configure) (hr : i ≠ .reset) (hi : i ≠ .init) :
    m (eventsOf i) = (actionWords (actionsOf i)).length := by
  rw [eventsOf_actions hc hr hi, hm.actions]

end

/-! ## INIT (rules R87, R89) -/

theorem initScript_words : initScript.flatMap entryWords = (Spec.initRows.flatMap (·.1)).map Spec.wordOf := by
  rw [← initScript_map_scriptRow, List.flatMap_map, List.map_flatMap]
  refine List.flatMap_congr fun e _ => ?_
  simp [scriptRow, Function.comp_def]

theorem flatMap_wordEvents_length (c : Config) (ws : List (Bool × Byte)) :
    (ws.flatMap (wordEvents c)).length = 7 * ws.length := by
  simp [List.length_flatMap, wordEvents, Nat.mul_comm]

theorem eventsOf_init_length : (eventsOf .init).length = 577 := by
  have hentry : ∀ e, (entryEvents hardware e).length =
      7 * (1 + e.payload.length) + if e.waitUs > 0 then 1 else 0 := by
    intro e
    rw [entryEvents, List.length_append, flatMap_wordEvents_length, entryWords, List.length_cons, List.length_map,
      Nat.add_comm 1]
    split <;> rfl
  rw [eventsOf, List.length_flatMap, List.map_congr_left fun e _ => hentry e]
  decide

theorem strobeCount_init : strobeCount (eventsOf .init) = 82 := by
  have hwait : ∀ e : ScriptEntry, strobeCount (if e.waitUs > 0 then [.delay e.waitUs] else []) = 0 := by
    intro e
    split <;> rfl
  rw [eventsOf, countsWords_strobeCount.flatMap]
  simp only [countsWords_strobeCount.entry, hwait]
  decide

theorem minDuration_init : minDuration (eventsOf .init) = 225082 := by
  have hwait : ∀ e : ScriptEntry, minDuration (if e.waitUs > 0 then [.delay e.waitUs] else []) = e.waitUs := by
    intro e
    split
    · rfl
    · next h => exact (Nat.eq_zero_of_not_pos h).symm
  rw [eventsOf, countsWords_minDuration.flatMap]
  simp only [countsWords_minDuration.entry, hwait]
  decide

/-! ## Lines and rectangles (rules R104, R110 to R113) -/

section

variable {x y size x1 y1 x2 y2 : Nat} {color : U16} {filled : Bool}

theorem pixelWords_length (color : Nat) (p : Nat × Nat) : (Spec.pixelWords color p).length = 13 := rfl

theorem flatMap_pixelWords_length (color : Nat) (ps : List (Nat × Nat)) :
    (ps.flatMap (Spec.pixelWords color)).length = 13 * ps.length := by
  simp [List.length_flatMap, pixelWords_length, Nat.mul_comm]

theorem actionWords_pixelActions (h : Spec.InFrame x y) :
    actionWords (pixelActions x y color) = Spec.pixelWords color.toNat (x, y) := by
  rw [pixelActions, if_pos (inFrame_iff.2 h), actionWords_map_word, pixelWords_of_reference hardware_pixelLowByte h]

theorem actionWords_pixelActions_of_not (h : ¬Spec.InFrame x y) : actionWords (pixelActions x y color) = [] := by
  rw [pixelActions, if_neg (mt inFrame_iff.1 h)]
  rfl

/-- A line in frame sends the words of its touched cells, one cell after another. -/
theorem actionWords_lineActions_of_inFrame (h1 : Spec.InFrame x1 y1) (h2 : Spec.InFrame x2 y2) :
    actionWords (lineActions x1 y1 x2 y2 color) =
      (lineTouches hardware x1 y1 x2 y2).flatMap (Spec.pixelWords color.toNat) := by
  rw [lineActions, if_pos (inFrame_and_iff.2 ⟨h1, h2⟩), actionWords_flatMap]
  exact List.flatMap_congr fun p hp => actionWords_pixelActions (inFrame_of_mem_lineTouches h1 h2 hp)

theorem actionWords_lineActions_of_not (h : ¬(Spec.InFrame x1 y1 ∧ Spec.InFrame x2 y2)) :
    actionWords (lineActions x1 y1 x2 y2 color) = [] := by
  rw [lineActions, if_neg (mt inFrame_and_iff.1 h)]
  rfl

/-- On this hardware the touch list of a line in frame has as many entries as the spec counts (rules R105, R109). -/
theorem lineTouches_length (h1 : Spec.InFrame x1 y1) (h2 : Spec.InFrame x2 y2) :
    (lineTouches hardware x1 y1 x2 y2).length = Spec.touchCount x1 y1 x2 y2 := by
  rw [Spec.touchCount, if_neg (not_not.2 ⟨h1, h2⟩)]
  split_ifs with hx hy hdraw
  · rw [lineTouches_of_straight (.inl hx), straightRun, if_pos hx]
    simp [Spec.column]
  · rw [lineTouches_of_straight (.inr hy), straightRun, if_neg hx]
    simp [Spec.row]
  · have hcolumns := congrArg List.length (map_fst_cells_generalPoints hx hdraw)
    rw [lineTouches_of_drawn hx hy (.inl hdraw)]
    simpa using hcolumns
  · rw [lineTouches_of_not_drawn hx hy fun h => hdraw (h.resolve_right (by rw [hardware_lineSteep]; nofun))]
    rfl

theorem actionWords_lineActions_length :
    (actionWords (lineActions x1 y1 x2 y2 color)).length = 13 * Spec.touchCount x1 y1 x2 y2 := by
  by_cases h : Spec.InFrame x1 y1 ∧ Spec.InFrame x2 y2
  · rw [actionWords_lineActions_of_inFrame h.1 h.2, flatMap_pixelWords_length, lineTouches_length h.1 h.2]
  · rw [actionWords_lineActions_of_not h, Spec.touchCount, if_pos h]
    rfl

/-- The words of lines are those of the cells of the lines in frame. -/
theorem flatMap_rectLineWords (color : Nat) (ls : List (Nat × Nat × Nat × Nat)) :
    ls.flatMap (Spec.rectLineWords color) =
      ((ls.filter Spec.lineInFrame).flatMap fun l => straightRun l.1 l.2.1 l.2.2.1 l.2.2.2).flatMap
        (Spec.pixelWords color) := by
  induction ls with
  | nil => rfl
  | cons l ls ih => cases hf : Spec.lineInFrame l <;> simp [Spec.rectLineWords, straightRun, hf, ih]

/-- A rectangle sends the words of its cells, one cell after another. -/
theorem actionWords_rectActions_eq_cells :
    actionWords (rectActions x y size color filled) =
      (Spec.rectCells x y size filled).flatMap (Spec.pixelWords color.toNat) := by
  rw [actionWords_rectActions, flatMap_rectLineWords]
  rfl

theorem actionWords_rectActions_length :
    (actionWords (rectActions x y size color filled)).length = 13 * (Spec.rectCells x y size filled).length := by
  rw [actionWords_rectActions_eq_cells, flatMap_pixelWords_length]

theorem lineInFrame_iff {l : Nat × Nat × Nat × Nat} :
    Spec.lineInFrame l = true ↔ Spec.InFrame l.1 l.2.1 ∧ Spec.InFrame l.2.2.1 l.2.2.2 := by
  rw [lineInFrame_eq, inFrame_and_iff]

theorem lineInFrame_of_mem_rectLines (hx : x + size < 240) (hy : y + size < 320) {l : Nat × Nat × Nat × Nat}
    (hl : l ∈ Spec.rectLines x y size filled) : Spec.lineInFrame l = true := by
  rw [lineInFrame_iff]
  cases filled with
  | false =>
    simp only [Spec.rectLines, Bool.false_eq_true, if_false, List.mem_cons, List.not_mem_nil, or_false] at hl
    rcases hl with rfl | rfl | rfl | rfl <;> dsimp only [Spec.InFrame] <;> omega
  | true =>
    obtain ⟨k, hk, rfl⟩ := List.mem_map.1 hl
    have hk := List.mem_range.1 hk
    dsimp only [Spec.InFrame]
    omega

theorem straightRun_length (h : x1 = x2 ∨ y1 = y2) :
    (straightRun x1 y1 x2 y2).length = (max x1 x2 - min x1 x2) + (max y1 y2 - min y1 y2) + 1 := by
  unfold straightRun
  split_ifs with hx
  · simp [Spec.column, hx]
  · simp [Spec.row, h.resolve_left hx]

/-- Every line of a rectangle is a run of `size + 1` cells. -/
theorem straightRun_length_of_mem_rectLines {l : Nat × Nat × Nat × Nat} (hl : l ∈ Spec.rectLines x y size filled) :
    (straightRun l.1 l.2.1 l.2.2.1 l.2.2.2).length = size + 1 := by
  rw [straightRun_length (straight_of_mem_rectLines hl)]
  cases filled with
  | false =>
    simp only [Spec.rectLines, Bool.false_eq_true, if_false, List.mem_cons, List.not_mem_nil, or_false] at hl
    rcases hl with rfl | rfl | rfl | rfl <;> simp
  | true =>
    obtain ⟨k, -, rfl⟩ := List.mem_map.1 hl
    simp

/-- The cells of a rectangle are the runs of its lines in frame. -/
theorem rectCells_eq :
    Spec.rectCells x y size filled = ((Spec.rectLines x y size filled).filter Spec.lineInFrame).flatMap fun l =>
      straightRun l.1 l.2.1 l.2.2.1 l.2.2.2 := rfl

theorem rectLines_length : (Spec.rectLines x y size filled).length = if filled then size + 1 else 4 := by
  cases filled <;> simp [Spec.rectLines]

/-- The cells of a rectangle wholly in frame, counted as often as they are drawn (rule R150). -/
theorem rectCells_length_of_inFrame (hx : x + size < 240) (hy : y + size < 320) :
    (Spec.rectCells x y size filled).length = if filled then (size + 1) ^ 2 else 4 * (size + 1) := by
  have hfilter : (Spec.rectLines x y size filled).filter Spec.lineInFrame = Spec.rectLines x y size filled :=
    List.filter_eq_self.2 fun l => lineInFrame_of_mem_rectLines hx hy
  have hruns : (Spec.rectCells x y size filled).length = (Spec.rectLines x y size filled).length * (size + 1) := by
    rw [rectCells_eq, hfilter, List.length_flatMap,
      List.map_congr_left fun l hl => straightRun_length_of_mem_rectLines hl]
    simp
  rw [hruns, rectLines_length]
  cases filled <;> simp [pow_two]

/-- No line of a fill that reaches column 240 is in frame (rule R113). -/
theorem lineInFrame_of_fill_beyond (h : 240 ≤ x + size) {l : Nat × Nat × Nat × Nat}
    (hl : l ∈ Spec.rectLines x y size true) : Spec.lineInFrame l = false := by
  obtain ⟨k, -, rfl⟩ := List.mem_map.1 hl
  rw [Bool.eq_false_iff, Ne, lineInFrame_iff]
  dsimp only [Spec.InFrame]
  omega

/-- A fill that reaches column 240 is one report for each row. -/
theorem rectActions_of_fill_beyond (h : 240 ≤ x + size) :
    rectActions x y size color true =
      (List.range (size + 1)).map fun k => .raise (.line x (y + k) (x + size) (y + k)) := by
  have hraise : ∀ l ∈ Spec.rectLines x y size true, lineActions l.1 l.2.1 l.2.2.1 l.2.2.2 color =
      [.raise (.line l.1 l.2.1 l.2.2.1 l.2.2.2)] :=
    fun l hl => lineActions_of_not_lineInFrame (lineInFrame_of_fill_beyond h hl)
  rw [rectActions, rectLines_eq_spec, List.flatMap_congr hraise, ← List.map_eq_flatMap, Spec.rectLines, if_pos rfl,
    List.map_map]
  rfl

theorem actionWords_map_raise {α : Type} (f : α → ReportInfo) (xs : List α) :
    actionWords (xs.map fun k => .raise (f k)) = [] := by
  induction xs with
  | nil => rfl
  | cons k ks ih => rw [List.map_cons, actionWords_raise, ih]

theorem actionReports_map_raise {α : Type} (f : α → ReportInfo) (xs : List α) :
    actionReports (xs.map fun k => .raise (f k)) = xs.map fun k => .outOfBounds (f k) := by
  induction xs with
  | nil => rfl
  | cons k ks ih => rw [List.map_cons, actionReports_raise, ih, List.map_cons]

theorem events_map_raise {α : Type} (f : α → ReportInfo) (xs : List α) :
    (xs.map fun k => Action.raise (f k)).flatMap Action.events = xs.map fun k => .report (.outOfBounds (f k)) := by
  rw [List.flatMap_map, List.map_eq_flatMap]
  rfl

end

/-! ## What instructions leave alone -/

/-- Every instruction but `CONFIGURE` leaves `RD`. -/
theorem rd_replay_eventsOf (hc : i ≠ .configure) (ls : Latches) : (replay ls (eventsOf i)).rd = ls.rd := by
  refine eventsOf_induction (P := fun es => ∀ ls, (replay ls es).rd = ls.rd) (fun _ => rfl) (fun es es' h h' ls => ?_)
    (fun _ _ => rfl) (fun _ _ => rfl) (fun _ _ => rfl) (fun _ _ => rfl) (fun h => absurd h hc) ls
  rw [replay_append, h', h]

/-- Every instruction but `CONFIGURE` and `RESET` leaves `RST`. -/
theorem rst_replay_eventsOf (hc : i ≠ .configure) (hr : i ≠ .reset) (ls : Latches) :
    (replay ls (eventsOf i)).rst = ls.rst := by
  refine eventsOf_induction (P := fun es => ∀ ls, (replay ls es).rst = ls.rst) (fun _ => rfl) (fun es es' h h' ls => ?_)
    (fun _ _ => rfl) (fun _ _ => rfl) (fun _ _ => rfl) (fun h => absurd h hr) (fun h => absurd h hc) ls
  rw [replay_append, h', h]

/-- The actions of an instruction that does not draw are words alone. -/
theorem actionReports_of_not_draw (hp : ∀ x y c, i ≠ .pixel x y c) (hl : ∀ x1 y1 x2 y2 c, i ≠ .line x1 y1 x2 y2 c)
    (hr : ∀ x y z c f, i ≠ .rect x y z c f) : actionReports (actionsOf i) = [] := by
  unfold actionsOf
  split
  case h_6 => exact absurd rfl (hp _ _ _)
  case h_7 => exact absurd rfl (hl _ _ _ _ _)
  case h_8 => exact absurd rfl (hr _ _ _ _ _)
  all_goals simp only [actionReports_word, actionReports_map_word, actionReports_nil]

/-- Instructions that do not draw make no report. -/
theorem reportsOf_eventsOf_of_not_draw (hp : ∀ x y c, i ≠ .pixel x y c)
    (hl : ∀ x1 y1 x2 y2 c, i ≠ .line x1 y1 x2 y2 c) (hr : ∀ x y z c f, i ≠ .rect x y z c f) :
    reportsOf (eventsOf i) = [] := by
  unfold eventsOf
  split
  · rfl
  · rfl
  · exact reportsOf_script _ _
  · rw [reportsOf_actions, actionReports_of_not_draw hp hl hr]

/-! ## Ghost state (rules R18, R22, R128) -/

theorem exec_of_refusalOf {r : Refusal} (h : refusalOf s.cfg s.lc i = some r) : exec i s = .refused r := by
  rw [exec_eq, h]

/-- An instruction reads nothing of the trace, the reports and the returned statuses. -/
theorem sameEffect_exec {s' : State} (h : Spec.SameBlock s s') (i : Instr) :
    Spec.SameEffect s s' (exec i s) (exec i s') := by
  obtain ⟨hlatches, hcfg, hlc, hpending, hreceiver⟩ := h
  cases hr : refusalOf s.cfg s.lc i with
  | some r => rw [exec_of_refusalOf hr, exec_of_refusalOf (hcfg ▸ hlc ▸ hr), Spec.SameEffect]
  | none =>
    rw [exec_eq_stateAfter hr, exec_eq_stateAfter (s := s') (hcfg ▸ hlc ▸ hr)]
    refine ⟨⟨?_, ?_, ?_, hpending, ?_⟩, _, _, _, rfl, rfl, rfl, rfl, rfl, rfl⟩
    · simp only [stateAfter, hlatches]
    · simp only [stateAfter, hcfg]
    · simp only [stateAfter, hlc]
    · simp only [stateAfter, hlatches, hreceiver]

/-- A report changes nothing but ghost state. -/
theorem sameBlock_reported (info : ReportInfo) (s : State) : Spec.SameBlock s (Spec.reported info s) :=
  ⟨rfl, rfl, rfl, rfl, rfl⟩

/-- An operation that completes had its precondition. -/
theorem precondition_of_exec (hi : Spec.isOperation i = true) (h : exec i s = .next t) : Spec.precondition s i :=
  (refusalOf_eq_none_iff hi).1 (exec_next_iff_after.1 h).1

/-! ## The low byte of a color (rules R21, R101) -/

section

variable {color color' : U16}

theorem pixelWords_congr_color (h : color.toNat / 256 = color'.toNat / 256) (x y : Nat) :
    pixelWords hardware x y color = pixelWords hardware x y color' := by
  have hhi : hi8 color = hi8 color' := BitVec.eq_of_toNat_eq (by rw [hi8_toNat, hi8_toNat, h])
  simp only [pixelWords, pixelLowByte, hardware_pixelLowByte, hhi]

theorem drawPixel_congr_color (h : color.toNat / 256 = color'.toNat / 256) (x y : Nat) :
    drawPixel hardware x y color = drawPixel hardware x y color' := by
  funext s
  simp only [drawPixel, pixelWords_congr_color h]

theorem drawLine_congr_color (h : color.toNat / 256 = color'.toNat / 256) (x1 y1 x2 y2 : Nat) :
    drawLine hardware x1 y1 x2 y2 color = drawLine hardware x1 y1 x2 y2 color' := by
  funext s
  simp only [drawLine, drawPixels, drawPixel_congr_color h]

theorem drawRect_congr_color (h : color.toNat / 256 = color'.toNat / 256) (x y size : Nat) (filled : Bool) :
    drawRect hardware x y size color filled = drawRect hardware x y size color' filled := by
  funext s
  simp only [drawRect, drawLine_congr_color h]

end

/-! ## The receiver's count of strobes (rule R38; log 10) -/

theorem receiverAfter_strobes (rst : Level) (r : Receiver) (i : Instr) :
    (receiverAfter rst r i).strobes = r.strobes + strobeCount (eventsOf i) := by
  by_cases hc : i = .configure
  · subst hc; rfl
  by_cases hr : i = .reset
  · subst hr; rfl
  by_cases hi : i = .init
  · subst hi
    rw [receiverAfter, broughtUp_strobes, acceptAll_strobes, strobeCount_init, sentWords, initScript_words_length]
  rw [receiverAfter_of_actions hc hr hi, acceptAll_strobes, countsWords_strobeCount.of_actions hc hr hi]

/-! ## Wire words (rules R30, R50) -/

/-- A wire row is the transfer of its word. -/
theorem exec_of_wireWordOf {w : Bool × Byte} (h : wireWordOf i = some w) (s : State) :
    exec i s = transfer hardware w.1 w.2 s := by
  cases i <;> cases h <;> rfl

theorem wireWordOf_commandWords : ∀ row ∈ Spec.commandWords, wireWordOf row.2 = some (Spec.wordOf row.1) := by decide

end Machine

open Machine

/-- Settles O12: each transfer of the script is one word for the observer, and its words are those of rule R89. -/
theorem initWordSequence : Obligations.InitWordSequence := by
  intro s t h
  have hwords : wordsFrom s.latches (eventsOf .init) = initScript.flatMap entryWords :=
    wordsFrom_flatMap (fun e ls => wordsFrom_entryEvents hardware e ls) initScript s.latches
  rw [drop_trace_of_exec h, hwords]
  exact ⟨eventsOf_init_length, initScript_words, initScript_words_length⟩

/-- Settles O21: each cell is thirteen words, and the runs of a rectangle in frame have `size + 1` cells each. -/
theorem rectInFrameCost : Obligations.RectInFrameCost := by
  intro s t x y size color filled hx hy h
  rw [drop_trace_of_exec h, countsWords_strobeCount.of_actions (i := .rect x y size color filled) nofun nofun nofun,
    actionsOf, actionWords_rectActions_length, rectCells_length_of_inFrame hx hy]
  refine ⟨?_, by split <;> ring⟩
  have hreports : reportsOf (eventsOf (.rect x y size color filled)) = [] := by
    rw [eventsOf_actions (i := .rect x y size color filled) nofun nofun nofun, reportsOf_actions, actionsOf,
      actionReports_rectActions, List.flatMap_eq_nil_iff]
    exact fun l hl => if_pos (lineInFrame_of_mem_rectLines hx hy hl)
  rw [eq_stateAfter_of_exec h, stateAfter, hreports, List.append_nil]

/-- Settles O22: each row of the fill is a line out of frame, so that the body is `size + 1` reports and no word. -/
theorem fillBeyondRightEdgeOnlyReports : Obligations.FillBeyondRightEdgeOnlyReports := by
  intro s t x y size color hx h
  have hactions := rectActions_of_fill_beyond (y := y.toNat) (color := color) hx
  obtain ⟨-, ht⟩ := exec_next.1 h
  rw [bodyOf_actions (i := .rect x y size color true) nofun nofun nofun, actionsOf, hactions, runActions_eq,
    actionWords_map_raise, actionReports_map_raise, events_map_raise] at ht
  subst ht
  refine ⟨rfl, rfl, rfl, ?_, ?_⟩
  · simp [Nat.add_assoc]
  · simp

/-- Settles O27: each field of the state after an instruction follows from its events, which write what they say. -/
theorem onlyTheirWritersWrite : Obligations.OnlyTheirWritersWrite := by
  intro i s t h
  have hcfg : i ≠ .configure → (s.cfg || i == .configure) = s.cfg := fun hc => by simp [hc]
  rw [eq_stateAfter_of_exec h]
  refine ⟨fun hc => ⟨rd_replay_eventsOf hc _, hcfg hc⟩, fun hc hr => rst_replay_eventsOf hc hr _,
    fun hr hi => lifecycleAfter_of_ne hr hi _, ?_, rfl, ⟨_, rfl⟩, ⟨_, rfl⟩, ⟨_, rfl⟩, fun hp hl hr => ?_⟩
  · rintro rfl
    exact ⟨rfl, rfl, rfl, rfl⟩
  · have hreports := reportsOf_eventsOf_of_not_draw hp hl hr
    simp [stateAfter, statusOf, hreports]

/-- Settles O28: `lc` after an instruction is as before but for `RESET` and `INIT`, which runs from one state only. -/
theorem lifecycleEdges : Obligations.LifecycleEdges := by
  intro s t h
  rcases step_next h with rfl | ⟨r, rest, i, hpending, hdecode, hexec⟩
  · exact .inl rfl
  by_cases hr : i = .reset
  · subst hr
    exact .inr ⟨r, rest, hpending, .inl ⟨hdecode, by rw [eq_stateAfter_of_exec hexec]; rfl⟩⟩
  by_cases hi : i = .init
  · subst hi
    obtain ⟨-, hlc⟩ := precondition_of_exec rfl hexec
    exact .inr ⟨r, rest, hpending, .inr ⟨hdecode, hlc, by rw [eq_stateAfter_of_exec hexec]; rfl⟩⟩
  · rw [eq_stateAfter_of_exec hexec]
    exact .inl (lifecycleAfter_of_ne hr hi _)

/-- Settles O29: each of the three leaves the precondition of the next, and their events are fixed lists. -/
theorem bringUpReachesReady : Obligations.BringUpReachesReady := by
  intro s hs
  have hinit : ∀ ls, replay ls (eventsOf .init) = latchesAfter ls (false, 0x29) := fun ls => by
    rw [eventsOf, replay_script, initScript_words_concat, latchesAfterAll_concat]
  have hcfg : (stateAfter .configure s).cfg = true := by simp [stateAfter]
  have hcfg' : (stateAfter .reset (stateAfter .configure s)).cfg = true := by simp [stateAfter]
  refine ⟨stateAfter .configure s, stateAfter .reset (stateAfter .configure s),
    stateAfter .init (stateAfter .reset (stateAfter .configure s)), exec_eq_stateAfter (by simp [refusalOf, hs]),
    exec_eq_stateAfter (by simp [refusalOf, hcfg]), exec_eq_stateAfter (by simp [refusalOf, hcfg']; rfl),
    ⟨by simp [stateAfter], rfl⟩, ?_, ?_, ?_, ?_⟩
  · simp only [stateAfter, hinit]
    rfl
  · simp [stateAfter, reportsOf_eventsOf_of_not_draw]
  · simp only [stateAfter, List.append_assoc, List.drop_left, List.length_append, eventsOf_init_length]
    rfl
  · simp only [stateAfter, List.append_assoc, List.drop_left, minDuration_append, minDuration_init]
    rfl

/-- Settles O30: the delays of all but `CONFIGURE`, `RESET` and `INIT` are one microsecond for each word sent. -/
theorem minimumDurations : Obligations.MinimumDurations := by
  intro s t
  have hwords : ∀ {i : Instr}, exec i s = .next t → i ≠ .configure → i ≠ .reset → i ≠ .init →
      minDuration (t.trace.drop s.trace.length) = (actionWords (actionsOf i)).length := by
    intro i h hc hr hi
    rw [drop_trace_of_exec h, countsWords_minDuration.of_actions hc hr hi]
  refine ⟨fun h => by rw [drop_trace_of_exec h]; rfl, fun _ _ h => hwords h nofun nofun nofun,
    fun _ h => hwords h nofun nofun nofun, fun _ h => hwords h nofun nofun nofun, fun bs h => ?_,
    fun h => by rw [drop_trace_of_exec h]; rfl, fun h => by rw [drop_trace_of_exec h, minDuration_init],
    fun _ _ _ _ h => hwords h nofun nofun nofun, fun x y c h => ?_, fun _ _ _ _ _ h => ?_,
    fun x y size c filled h => ?_⟩
  · rw [hwords h nofun nofun nofun, actionsOf, actionWords_map_word, List.length_map]
  · rw [hwords h nofun nofun nofun, actionsOf]
    split_ifs with hf
    · rw [actionWords_pixelActions hf, pixelWords_length]
    · rw [actionWords_pixelActions_of_not hf, List.length_nil]
  · rw [hwords h nofun nofun nofun, actionsOf, actionWords_lineActions_length]
  · rw [hwords h nofun nofun nofun, actionsOf, actionWords_rectActions_length]
    refine ⟨rfl, fun hx hy => ?_⟩
    rw [rectCells_length_of_inFrame hx hy]
    split <;> ring

/-- Settles O31: refusal and effect are functions of the latches, `cfg`, `lc` and the receiver. -/
theorem ghostStateIsNeverRead : Obligations.GhostStateIsNeverRead := fun i _ _ h => sameEffect_exec h i

/-- Settles O32: the failing operation left its report alone, which is ghost state. -/
theorem nextRunsAsIfNotRequested : Obligations.NextRunsAsIfNotRequested := by
  intro i s t x1 y1 x2 y2 color h
  obtain ⟨info, rfl⟩ : ∃ info, t = Spec.reported info s := by
    rcases h with ⟨hf, h⟩ | ⟨hf, h⟩
    · have hs : Spec.Ready s := precondition_of_exec rfl h
      exact ⟨_, Host.Outcome.next.inj (h.symm.trans (pixel_of_outOfFrame hs hf))⟩
    · have hs : Spec.Ready s := precondition_of_exec rfl h
      exact ⟨_, Host.Outcome.next.inj (h.symm.trans (line_of_outOfFrame hs hf))⟩
  exact ⟨List.length_append, List.length_append, sameEffect_exec (sameBlock_reported info s) i⟩

/-- Settles O33: under `Reference` the words of a pixel depend on the color's high byte alone. -/
theorem lowColorByteIsNeverSent : Obligations.LowColorByteIsNeverSent := by
  intro s color color' h
  simp only [exec_pixel, exec_line, exec_rect, pixel, line, rect, drawPixel_congr_color h, drawLine_congr_color h,
    drawRect_congr_color h, implies_true, and_self]

/-- Settles O41: the receiver counts every word it is sent, and an instruction's strobes are its words. -/
theorem everyStrobeIsCounted : Obligations.EveryStrobeIsCounted := by
  intro i s t h
  rw [drop_trace_of_exec h, eq_stateAfter_of_exec h]
  exact receiverAfter_strobes _ _ i

/-- Settles O3: the levels of `configureBody_eq`. -/
theorem configureIdleLevelsAreParameters : Obligations.ConfigureIdleLevelsAreParameters := by
  intro c s hs
  refine ⟨_, configure_of_not hs, ?_⟩
  rw [configureBody_eq, ← Level.ofBit_eq_ite, ← Level.ofBit_eq_ite]
  exact ⟨rfl, rfl, rfl, rfl, rfl, rfl⟩

/-- Settles O5: a configured transfer sends its word, and its one strobe is held for the parameter's width. -/
theorem transferHoldsStrobeForParameter : Obligations.TransferHoldsStrobeForParameter := by
  intro c s byte isData hs
  obtain ⟨t, ht, hsent⟩ := transfer_sends (c := c) (d := isData) (b := byte) hs
  exact ⟨t, ht, hsent, by simp [Spec.transferEvents, strobesHeld]⟩

/-- Settles O10: of the three writes of `RST` those that change its level are transitions. -/
theorem resetTransitionsOfRst : Obligations.ResetTransitionsOfRst := by
  intro s t h
  rw [drop_trace_of_exec h]
  constructor <;> intro hrst <;> simp [eventsOf, resetEvents, transitions, Event.apply, hrst]

/-- Settles O26: a wire row and `XFER` of its word are the same transfer. -/
theorem wireWordsAreBusWrites : Obligations.WireWordsAreBusWrites := by
  refine ⟨fun s => ⟨fun row hrow => ?_, fun b => ⟨rfl, rfl⟩⟩,
    fun s hs => ⟨fun row hrow => ?_, fun b => ?_, fun b => ?_⟩⟩
  · rw [exec_of_wireWordOf (wireWordOf_commandWords row hrow), exec_xfer]
  · rw [exec_of_wireWordOf (wireWordOf_commandWords row hrow)]
    exact transfer_sends hs
  · exact transfer_sends hs
  · exact transfer_sends hs

end Sys2Proof
end

section
/-! What the receiver makes of what it is sent (rules R38 to R41, R47; logs 6 to 12): pixels in frame memory, cell by
cell and in a stream, and the situations about which nothing is known. -/

namespace Sys2Proof

namespace Machine

variable {s t : State} {i : Instr} {r : Receiver}

/-! ## Acceptance (log 10) -/

/-- What holds of a receiver that has taken words at `RST = 1` holds if all were accepted; else nothing is known. -/
theorem ifTook_of_acceptAll {known : Prop} {ws : List (Bool × Byte)}
    (hreceiver : t.receiver = acceptAll .high s.receiver ws)
    (hknown : t.receiver = { takeAll s.receiver ws with strobes := s.receiver.strobes + ws.length } → known) :
    Spec.IfTook s t known := by
  have hstrobes : t.receiver.strobes = s.receiver.strobes + ws.length := by rw [hreceiver, acceptAll_strobes]
  refine ⟨fun htook => hknown ?_, fun hnot => ?_⟩
  · rw [hreceiver, acceptAll_of_accepted fun k hk => htook _ (Nat.le_add_right _ _) (by omega)]
  · simp only [Spec.Took, not_forall] at hnot
    obtain ⟨n, hlow, hhigh, hn⟩ := hnot
    obtain ⟨k, rfl⟩ := Nat.exists_eq_add_of_le hlow
    obtain ⟨hphase, hgram⟩ := acceptAll_of_not_accepted (r := s.receiver) (ws := ws) .high (k := k) (by omega)
      (Bool.eq_false_iff.2 hn)
    rw [hreceiver, hgram]
    exact ⟨hphase, fun a => rfl⟩

theorem receiver_of_exec (h : exec i s = .next t) (hc : i ≠ .configure) (hr : i ≠ .reset) (hi : i ≠ .init) :
    t.receiver = acceptAll s.latches.rst s.receiver (actionWords (actionsOf i)) := by
  rw [eq_stateAfter_of_exec h, stateAfter, receiverAfter_of_actions hc hr hi]

/-! ## One pixel of memory (rules R40, R47) -/

/-- Memory after both bytes of the cell at `a` have been sent: unspecified after the first, stored after the second. -/
def Memory.store (m : Memory) (a : Nat) (h l : Byte) : Memory :=
  (((m.forget a).forget (a + 1)).write a h).write (a + 1) l

@[simp] theorem Memory.read_store_high (m : Memory) (a : Nat) (h l : Byte) : (m.store a h l).read a = some h := by
  rw [Memory.store, Memory.read_write_other _ _ (by omega), Memory.read_write_same]

@[simp] theorem Memory.read_store_low (m : Memory) (a : Nat) (h l : Byte) : (m.store a h l).read (a + 1) = some l := by
  rw [Memory.store, Memory.read_write_same]

theorem Memory.read_store_other (m : Memory) {a a' : Nat} (h l : Byte) (ha : a' ≠ a) (ha' : a' ≠ a + 1) :
    (m.store a h l).read a' = m.read a' := by
  rw [Memory.store, Memory.read_write_other _ _ ha', Memory.read_write_other _ _ ha, Memory.read_forget_other _ ha',
    Memory.read_forget_other _ ha]

/-! ## Cells drawn one after another -/

/-- From `m` to `m'` the cells `ps` have been drawn in a color under `Reference`, and no other byte changed. -/
def Drawn (color : Nat) (ps : List (Nat × Nat)) (m m' : Memory) : Prop :=
  (∀ p ∈ ps, m'.read (Spec.addr p.1 p.2) = some (Spec.hi color) ∧ m'.read (Spec.addr p.1 p.2 + 1) = some 0xFF) ∧
  ∀ a, (∀ p ∈ ps, ¬Spec.inCell p.1 p.2 a) → m'.read a = m.read a

theorem Drawn.nil (color : Nat) (m : Memory) : Drawn color [] m m := ⟨nofun, fun _ _ => rfl⟩

/-- A cell drawn, and then others, of which one may be the same cell. -/
theorem Drawn.cons {color : Nat} {p : Nat × Nat} {ps : List (Nat × Nat)} {m m' : Memory}
    (h : Drawn color ps (m.store (Spec.addr p.1 p.2) (Spec.hi color) 0xFF) m') : Drawn color (p :: ps) m m' := by
  obtain ⟨hcells, hothers⟩ := h
  refine ⟨List.forall_mem_cons.2 ⟨?_, hcells⟩, fun a ha => ?_⟩
  · by_cases hp : ∃ q ∈ ps, Spec.addr q.1 q.2 = Spec.addr p.1 p.2
    · obtain ⟨q, hq, haddr⟩ := hp
      rw [← haddr]
      exact hcells q hq
    · have hfree : ∀ q ∈ ps, ¬Spec.inCell q.1 q.2 (Spec.addr p.1 p.2) ∧
          ¬Spec.inCell q.1 q.2 (Spec.addr p.1 p.2 + 1) := by
        intro q hq
        have hne : Spec.addr q.1 q.2 ≠ Spec.addr p.1 p.2 := fun h => hp ⟨q, hq, h⟩
        simp only [Spec.inCell, Spec.addr] at hne ⊢
        omega
      rw [hothers _ fun q hq => (hfree q hq).1, hothers _ fun q hq => (hfree q hq).2]
      exact ⟨Memory.read_store_high .., Memory.read_store_low ..⟩
  · obtain ⟨hp, hps⟩ := List.forall_mem_cons.1 ha
    obtain ⟨hhigh, hlow⟩ := not_or.1 hp
    rw [hothers a hps, Memory.read_store_other _ _ _ hhigh hlow]

/-- A receiver that awaits a command takes the words of in-frame pixels: it draws their cells, and awaits a command. -/
theorem takeAll_pixels (color : U16) {ps : List (Nat × Nat)} (hps : ∀ p ∈ ps, Spec.InFrame p.1 p.2)
    (h : awaitsCommand r = true) :
    awaitsCommand (takeAll r (ps.flatMap (Spec.pixelWords color.toNat))) = true ∧
      Drawn color.toNat ps r.gram (takeAll r (ps.flatMap (Spec.pixelWords color.toNat))).gram := by
  induction ps generalizing r with
  | nil => exact ⟨h, Drawn.nil _ _⟩
  | cons p ps ih =>
    obtain ⟨hp, hps⟩ := List.forall_mem_cons.1 hps
    rw [List.flatMap_cons, takeAll_append, ← pixelWords_of_reference hardware_pixelLowByte hp,
      takeAll_pixelWords h hardware (inFrame_iff.2 hp)]
    refine (ih hps ?_).imp_right fun hdrawn => Drawn.cons ?_
    · rfl
    · rw [← hi8_eq_spec]
      exact hdrawn

/-- An instruction that sends the words of in-frame pixels draws their cells, if its words are all accepted. -/
theorem exec_draws {color : U16} {ps : List (Nat × Nat)} (hc : i ≠ .configure) (hr : i ≠ .reset) (hi : i ≠ .init)
    (hrefusal : refusalOf s.cfg s.lc i = none) (hrst : s.latches.rst = .high) (h : awaitsCommand s.receiver = true)
    (hwords : actionWords (actionsOf i) = ps.flatMap (Spec.pixelWords color.toNat))
    (hps : ∀ p ∈ ps, Spec.InFrame p.1 p.2) :
    ∃ t, exec i s = .next t ∧
      Spec.IfTook s t (awaitsCommand t.receiver = true ∧ Drawn color.toNat ps s.receiver.gram t.receiver.gram) := by
  have hexec := exec_eq_stateAfter hrefusal
  have hreceiver := receiver_of_exec hexec hc hr hi
  rw [hrst, hwords] at hreceiver
  refine ⟨_, hexec, ifTook_of_acceptAll hreceiver fun htaken => ?_⟩
  rw [htaken]
  exact takeAll_pixels color hps h

theorem inFrame_of_mem_rectCells {x y size : Nat} {filled : Bool} {p : Nat × Nat}
    (hp : p ∈ Spec.rectCells x y size filled) : Spec.InFrame p.1 p.2 := by
  rw [rectCells_eq] at hp
  obtain ⟨l, hl, hp⟩ := List.mem_flatMap.1 hp
  obtain ⟨-, hf⟩ := List.mem_filter.1 hl
  obtain ⟨h1, h2⟩ := lineInFrame_iff.1 hf
  exact inFrame_of_mem_straightRun h1 h2 hp

/-- The cells of a fill whose right edge is in frame (rules R111, R113). -/
theorem mem_rectCells_fill {x y size : Nat} (hx : x + size < 240) {p : Nat × Nat} :
    p ∈ Spec.rectCells x y size true ↔
      ∃ i j, i ≤ size ∧ j ≤ size ∧ y + j < 320 ∧ p = (x + i, y + j) := by
  have hrun : ∀ j, straightRun x (y + j) (x + size) (y + j) = Spec.row x (x + size) (y + j) := by
    intro j
    unfold straightRun
    split_ifs with h
    · obtain rfl : size = 0 := by omega
      simp [Spec.column, Spec.row]
    · rfl
  simp only [rectCells_eq, Spec.rectLines, if_true, List.mem_flatMap, List.mem_filter, List.mem_map, List.mem_range,
    lineInFrame_iff]
  constructor
  · rintro ⟨l, ⟨⟨j, hj, rfl⟩, ⟨-, hy⟩, -⟩, hp⟩
    rw [hrun] at hp
    obtain ⟨i, hi, rfl⟩ := List.mem_map.1 hp
    have hi := List.mem_range.1 hi
    exact ⟨i, j, by omega, by omega, hy, by simp⟩
  · rintro ⟨i, j, hi, hj, hy, rfl⟩
    refine ⟨_, ⟨⟨j, by omega, rfl⟩, ⟨?_, hy⟩, hx, hy⟩, ?_⟩
    · dsimp only
      omega
    · rw [hrun]
      exact List.mem_map.2 ⟨i, List.mem_range.2 (by omega), by simp⟩

/-- The touch list of the model under `Reference` is the spec's. -/
theorem touches_lineTouches (x1 y1 x2 y2 : Nat) : Spec.Touches x1 y1 x2 y2 (lineTouches hardware x1 y1 x2 y2) := by
  unfold Spec.Touches
  split_ifs with hx hy hdraw
  · rw [lineTouches_of_straight (.inl hx), straightRun, if_pos hx]
  · rw [lineTouches_of_straight (.inr hy), straightRun, if_neg hx]
  · exact ⟨_, generalLine_generalPoints hx hy, lineTouches_of_drawn hx hy (.inl hdraw)⟩
  · exact lineTouches_of_not_drawn hx hy fun h => hdraw (h.resolve_right (by rw [hardware_lineSteep]; nofun))

/-! ## A stream of pixels (rules R40, R47) -/

/-- The cells of a window inside the frame come at rising addresses, two bytes each. -/
theorem streamAddr_lt_streamAddr {w : Window} (hcol : columnsValid w = true) {n m : Nat} (h : n < m) :
    streamAddr w n + 1 < streamAddr w m := by
  rw [columnsValid_iff] at hcol
  have hcolumns : windowColumns w = w.xe.toNat - w.xs.toNat + 1 := rfl
  have hn : n % windowColumns w < windowColumns w := Nat.mod_lt _ (Nat.succ_pos _)
  have hm : m % windowColumns w < windowColumns w := Nat.mod_lt _ (Nat.succ_pos _)
  have hsplit := Nat.div_add_mod n (windowColumns w)
  have hsplit' := Nat.div_add_mod m (windowColumns w)
  simp only [streamAddr, cellAddr]
  rcases (Nat.div_le_div_right (c := windowColumns w) h.le).lt_or_eq with hrow | hrow
  · omega
  · rw [hrow] at hsplit ⊢
    omega

/-- Two data bytes in a stream inside its window store one pixel at the write position. -/
theorem takeAll_pixelBytes {n : Nat} (hphase : r.phase = .stream n none) (hn : n < windowCells r.window) (h l : Byte) :
    takeAll r [(true, h), (true, l)] =
      { r with phase := .stream (n + 1) none, gram := r.gram.store (streamAddr r.window n) h l } := by
  simp [takeAll_cons, Receiver.take, Receiver.dataByte, hphase, hn, Memory.store]

/-- The words of pixels in a stream, two data bytes each. -/
def pixelBytes (pixels : List (Byte × Byte)) : List (Bool × Byte) := (pixels.flatMap fun p => [p.1, p.2]).map dataWord

theorem pixelBytes_cons (p : Byte × Byte) (pixels : List (Byte × Byte)) :
    pixelBytes (p :: pixels) = [(true, p.1), (true, p.2)] ++ pixelBytes pixels := rfl

/-- Pixels in a stream fill the cells from the write position on, in the order of rule R40, and no others. -/
theorem takeAll_pixelBytes_fills {n : Nat} {pixels : List (Byte × Byte)} (hphase : r.phase = .stream n none)
    (hcol : columnsValid r.window = true) (hn : n + pixels.length ≤ windowCells r.window) :
    (∀ k (h : k < pixels.length),
      (takeAll r (pixelBytes pixels)).gram.read (streamAddr r.window (n + k)) = some (pixels[k]).1 ∧
      (takeAll r (pixelBytes pixels)).gram.read (streamAddr r.window (n + k) + 1) = some (pixels[k]).2) ∧
    ∀ a, (∀ k, k < pixels.length → a ≠ streamAddr r.window (n + k) ∧ a ≠ streamAddr r.window (n + k) + 1) →
      (takeAll r (pixelBytes pixels)).gram.read a = r.gram.read a := by
  induction pixels generalizing r n with
  | nil => exact ⟨nofun, fun _ _ => rfl⟩
  | cons p pixels ih =>
    rw [List.length_cons] at hn
    rw [pixelBytes_cons, takeAll_append, takeAll_pixelBytes hphase (by omega)]
    set r' : Receiver := { r with phase := .stream (n + 1) none, gram := r.gram.store (streamAddr r.window n) p.1 p.2 }
    have hwindow : r'.window = r.window := rfl
    obtain ⟨hcells, hothers⟩ := ih (r := r') (n := n + 1) rfl hcol (by rw [hwindow]; omega)
    rw [hwindow] at hcells hothers
    refine ⟨fun k hk => ?_, fun a ha => ?_⟩
    · cases k with
      | zero =>
        have hlater : ∀ k, streamAddr r.window n + 1 < streamAddr r.window (n + 1 + k) := fun k =>
          streamAddr_lt_streamAddr hcol (by omega)
        rw [Nat.add_zero, hothers _ fun k _ => ?_, hothers _ fun k _ => ?_]
        · exact ⟨Memory.read_store_high .., Memory.read_store_low ..⟩
        · have := hlater k; omega
        · have := hlater k; omega
      | succ k =>
        rw [show n + (k + 1) = n + 1 + k by omega]
        exact hcells k (Nat.lt_of_succ_lt_succ hk)
    · obtain ⟨hhigh, hlow⟩ := ha 0 (Nat.zero_lt_succ _)
      rw [hothers a fun k hk => ?_]
      · exact Memory.read_store_other _ _ _ hhigh hlow
      · rw [show n + 1 + k = n + (k + 1) by omega]
        exact ha (k + 1) (Nat.succ_lt_succ hk)

/-! ## One word (rules R40, R41, R47) -/

theorem Unknown.read {r : Receiver} (h : Unknown r) (a : Nat) : r.gram.read a = none := by
  rw [h.2, Memory.read_nil]

/-- A word strobed is taken, or nothing is known of the receiver afterwards. -/
theorem accept_taken (r : Receiver) (rst : Level) (rs : Bool) (b : Byte) :
    Unknown (r.accept rst rs b) ∨ r.accept rst rs b = { r.take rs b with strobes := r.strobes + 1 } := by
  unfold Receiver.accept
  split
  · exact .inr rfl
  · exact .inl (unknown_lose r)

theorem startCommand_gram (r : Receiver) (b : Byte) :
    Unknown (r.startCommand b) ∨ ((r.startCommand b).phase ≠ .unspecified ∧ (r.startCommand b).gram = r.gram) := by
  unfold Receiver.startCommand
  split_ifs
  · exact .inr ⟨nofun, rfl⟩
  · exact .inr ⟨nofun, rfl⟩
  · exact .inr ⟨nofun, rfl⟩
  · exact .inl (unknown_lose r)
  · exact .inl (unknown_lose r)

/-- A command word leaves frame memory, or nothing is known of the receiver afterwards. -/
theorem command_gram (r : Receiver) (b : Byte) :
    Unknown (r.command b) ∨ ((r.command b).phase ≠ .unspecified ∧ (r.command b).gram = r.gram) := by
  unfold Receiver.command
  split
  case h_1 | h_2 => exact startCommand_gram r b
  case h_6 => exact .inr ⟨nofun, rfl⟩
  all_goals exact .inl (unknown_lose r)

theorem takeColumns_gram (r : Receiver) (got : List Byte) :
    Unknown (r.takeColumns got) ∨ ((r.takeColumns got).phase ≠ .unspecified ∧ (r.takeColumns got).gram = r.gram) := by
  rcases takeColumns_cases r got with heq | ⟨w, heq⟩ | ⟨-, heq⟩ <;> rw [heq]
  · exact .inl (unknown_lose r)
  · exact .inr ⟨nofun, rfl⟩
  · exact .inr ⟨nofun, rfl⟩

theorem takeRows_gram (r : Receiver) (got : List Byte) :
    Unknown (r.takeRows got) ∨ ((r.takeRows got).phase ≠ .unspecified ∧ (r.takeRows got).gram = r.gram) := by
  rcases takeRows_cases r got with heq | ⟨w, heq⟩ | ⟨-, heq⟩ <;> rw [heq]
  · exact .inl (unknown_lose r)
  · exact .inr ⟨nofun, rfl⟩
  · exact .inr ⟨nofun, rfl⟩

/-- What a data word `b` may change of frame memory: the cell at the write position of a stream, which has no value
after the first byte of a pixel and both bytes after the second (rule R47). -/
def DataWrites (r : Receiver) (b : Byte) (m : Memory) : Prop :=
  (∀ a, a ∉ Spec.streamBytes r → m.read a = r.gram.read a) ∧
  (∀ n, r.phase = .stream n none →
    m.read (streamAddr r.window n) = none ∧ m.read (streamAddr r.window n + 1) = none) ∧
  (∀ n first, r.phase = .stream n (some first) →
    m.read (streamAddr r.window n) = some first ∧ m.read (streamAddr r.window n + 1) = some b)

/-- Outside a stream a data word writes nothing. -/
theorem dataWrites_of_not_stream {b : Byte} (h : ∀ n first, r.phase ≠ .stream n first) : DataWrites r b r.gram :=
  ⟨fun _ _ => rfl, fun _ hphase => absurd hphase (h _ _), fun _ _ hphase => absurd hphase (h _ _)⟩

/-- A data word writes its byte of the cell being streamed, or nothing is known of the receiver afterwards. -/
theorem dataByte_gram (r : Receiver) (b : Byte) :
    Unknown (r.dataByte b) ∨ ((r.dataByte b).phase ≠ .unspecified ∧ DataWrites r b (r.dataByte b).gram) := by
  unfold Receiver.dataByte
  split
  case h_1 got hphase =>
    refine (takeColumns_gram r _).imp_right (And.imp_right fun hgram => ?_)
    rw [hgram]
    exact dataWrites_of_not_stream (by rw [hphase]; nofun)
  case h_2 got hphase =>
    refine (takeRows_gram r _).imp_right (And.imp_right fun hgram => ?_)
    rw [hgram]
    exact dataWrites_of_not_stream (by rw [hphase]; nofun)
  case h_3 n hphase =>
    split
    · refine .inr ⟨nofun, fun a ha => ?_, ?_, ?_⟩
      · simp only [Spec.streamBytes, hphase, List.mem_cons, List.not_mem_nil, or_false, not_or] at ha
        obtain ⟨hhigh, hlow⟩ := ha
        rw [Memory.read_forget_other _ hlow, Memory.read_forget_other _ hhigh]
      · rintro n' hn'
        obtain ⟨rfl, -⟩ := Phase.stream.inj (hphase.symm.trans hn')
        rw [Memory.read_forget_same, Memory.read_forget_other _ (by omega), Memory.read_forget_same]
        exact ⟨rfl, rfl⟩
      · rintro n' first hn'
        rw [hphase] at hn'
        cases hn'
    · exact .inl (unknown_lose r)
  case h_4 n first hphase =>
    refine .inr ⟨nofun, fun a ha => ?_, ?_, ?_⟩
    · simp only [Spec.streamBytes, hphase, List.mem_cons, List.not_mem_nil, or_false, not_or] at ha
      obtain ⟨hhigh, hlow⟩ := ha
      rw [Memory.read_write_other _ _ hlow, Memory.read_write_other _ _ hhigh]
    · rintro n' hn'
      rw [hphase] at hn'
      cases hn'
    · rintro n' first' hn'
      obtain ⟨rfl, hfirst⟩ := Phase.stream.inj (hphase.symm.trans hn')
      obtain rfl := Option.some.inj hfirst
      rw [Memory.read_write_same, Memory.read_write_other _ _ (by omega), Memory.read_write_same]
      exact ⟨rfl, rfl⟩
  case h_6 n hphase => exact .inr ⟨nofun, dataWrites_of_not_stream (by rw [hphase]; nofun)⟩
  all_goals exact .inl (unknown_lose r)

/-- A word taken leaves a receiver whose phase is known, or of which nothing is known. -/
theorem take_known (r : Receiver) (rs : Bool) (b : Byte) :
    Unknown (r.take rs b) ∨ (r.take rs b).phase ≠ .unspecified := by
  cases rs
  · exact (command_gram r b).imp_right And.left
  · exact (dataByte_gram r b).imp_right And.left

/-- After a word, a receiver with an unspecified phase has no known memory. -/
theorem accept_gram_of_unspecified {rst : Level} {rs : Bool} {b : Byte}
    (h : (r.accept rst rs b).phase = .unspecified) : (r.accept rst rs b).gram = [] := by
  rcases accept_taken r rst rs b with hunknown | htaken
  · exact hunknown.2
  · rw [htaken] at h ⊢
    exact ((take_known r rs b).resolve_right (not_not.2 h)).2

/-! ## Words about which nothing is known (rule R41) -/

theorem joinBytes_toNat (h l : Byte) : (joinBytes h l).toNat = h.toNat * 256 + l.toNat := by
  have hl : l.toNat < 256 := l.isLt
  rw [joinBytes, BitVec.toNat_append, ← Nat.shiftLeft_add_eq_or_of_lt hl, Nat.shiftLeft_eq]

/-- A fourth payload byte that makes the column range reversed or beyond the frame. -/
theorem takeColumns_of_not_valid (r : Receiver) {b0 b1 b2 b3 : Byte}
    (h : b0.toNat * 256 + b1.toNat > b2.toNat * 256 + b3.toNat ∨ b2.toNat * 256 + b3.toNat ≥ 240) :
    r.takeColumns [b0, b1, b2, b3] = r.lose := by
  refine if_neg fun hvalid => ?_
  rw [columnsValid_iff] at hvalid
  simp only [joinBytes_toNat] at hvalid
  omega

/-- A fourth payload byte that makes the row range reversed or beyond the frame. -/
theorem takeRows_of_not_valid (r : Receiver) {b0 b1 b2 b3 : Byte}
    (h : b0.toNat * 256 + b1.toNat > b2.toNat * 256 + b3.toNat ∨ b2.toNat * 256 + b3.toNat ≥ 320) :
    r.takeRows [b0, b1, b2, b3] = r.lose := by
  refine if_neg fun hvalid => ?_
  rw [rowsValid_iff] at hvalid
  simp only [joinBytes_toNat] at hvalid
  omega

/-- A memory write in a window that is reversed or beyond the frame. -/
theorem startCommand_of_not_valid
    (h : r.window.xs.toNat > r.window.xe.toNat ∨ r.window.xe.toNat ≥ 240 ∨
      r.window.ys.toNat > r.window.ye.toNat ∨ r.window.ye.toNat ≥ 320) :
    r.startCommand 0x2C = r.lose := by
  rw [Receiver.startCommand, if_neg (by decide), if_neg (by decide), if_pos rfl]
  refine if_neg fun hvalid => ?_
  rw [Bool.and_eq_true, columnsValid_iff, rowsValid_iff] at hvalid
  omega

/-- A word strobed at `RST = 0`, or not accepted. -/
theorem accept_of_not_taken {rst : Level} (h : rst = .low ∨ Config.wordAccepted r.strobes = false) (rs : Bool)
    (b : Byte) : r.accept rst rs b = { r.lose with strobes := r.strobes + 1 } := by
  unfold Receiver.accept
  rw [if_neg]
  rintro ⟨rfl, haccepted⟩
  simp [haccepted] at h

/-! ## After a reset (log 6) -/

theorem startCommand_phase_ne (r : Receiver) (b : Byte) (n : Nat) : (r.startCommand b).phase ≠ .sinceReset n := by
  unfold Receiver.startCommand
  split_ifs <;> nofun

theorem takeColumns_phase_ne (r : Receiver) (got : List Byte) (n : Nat) :
    (r.takeColumns got).phase ≠ .sinceReset n := by
  rcases takeColumns_cases r got with heq | ⟨w, heq⟩ | ⟨-, heq⟩ <;> rw [heq] <;> nofun

theorem takeRows_phase_ne (r : Receiver) (got : List Byte) (n : Nat) :
    (r.takeRows got).phase ≠ .sinceReset n := by
  rcases takeRows_cases r got with heq | ⟨w, heq⟩ | ⟨-, heq⟩ <;> rw [heq] <;> nofun

theorem sinceReset_of_command {b : Byte} {n : Nat} (h : (r.command b).phase = .sinceReset n) :
    ∃ m, n = m + 1 ∧ r.phase = .sinceReset m := by
  unfold Receiver.command at h
  split at h
  case h_1 | h_2 => exact absurd h (startCommand_phase_ne r b n)
  case h_6 m hphase => exact ⟨m, (Phase.sinceReset.inj h).symm, hphase⟩
  all_goals cases h

theorem sinceReset_of_dataByte {b : Byte} {n : Nat} (h : (r.dataByte b).phase = .sinceReset n) :
    ∃ m, n = m + 1 ∧ r.phase = .sinceReset m := by
  unfold Receiver.dataByte at h
  split at h
  case h_1 => exact absurd h (takeColumns_phase_ne r _ n)
  case h_2 => exact absurd h (takeRows_phase_ne r _ n)
  case h_3 => split at h <;> cases h
  case h_6 m hphase => exact ⟨m, (Phase.sinceReset.inj h).symm, hphase⟩
  all_goals cases h

/-- A word counted since a reset came to a receiver that was counting. -/
theorem sinceReset_of_take {rs : Bool} {b : Byte} {n : Nat} (h : (r.take rs b).phase = .sinceReset n) :
    ∃ m, n = m + 1 ∧ r.phase = .sinceReset m := by
  cases rs
  · exact sinceReset_of_command h
  · exact sinceReset_of_dataByte h

/-- Words counted since a reset were all accepted, at `RST = 1`, by a receiver that had counted the rest. -/
theorem sinceReset_of_acceptAll {rst : Level} {ws : List (Bool × Byte)} {n : Nat}
    (h : (acceptAll rst r ws).phase = .sinceReset (n + ws.length)) :
    r.phase = .sinceReset n ∧
      (ws ≠ [] → rst = .high) ∧ ∀ k, k < ws.length → Config.wordAccepted (r.strobes + k) = true := by
  induction ws generalizing r n with
  | nil => exact ⟨h, fun h => absurd rfl h, nofun⟩
  | cons w ws ih =>
    rw [acceptAll_cons, List.length_cons, ← Nat.add_assoc, Nat.add_right_comm] at h
    obtain ⟨hphase, -, hrest⟩ := ih h
    unfold Receiver.accept at hphase
    split at hphase
    · next hfirst =>
      obtain ⟨hrst, haccepted⟩ := hfirst
      obtain ⟨m, hm, hphase⟩ := sinceReset_of_take hphase
      obtain rfl := Nat.succ.inj hm
      refine ⟨hphase, fun _ => hrst, fun k hk => ?_⟩
      cases k with
      | zero => exact haccepted
      | succ k =>
        have hk := hrest k (Nat.lt_of_succ_lt_succ hk)
        rwa [accept_strobes, Nat.add_assoc, Nat.add_comm 1 k] at hk
    · cases hphase

/-- After `INIT` the receiver has counted the script's words exactly when it had counted none before, each was accepted
and `RST` is 1. -/
theorem sinceReset_init_iff (h : exec .init s = .next t) :
    (acceptAll s.latches.rst s.receiver (sentWords .init)).phase = .sinceReset 82 ↔
      s.receiver.phase = .sinceReset 0 ∧ s.latches.rst = .high ∧ Spec.Took s t := by
  have hlength : (sentWords .init).length = 82 := initScript_words_length
  have hstrobes : t.receiver.strobes = s.receiver.strobes + 82 := by
    rw [everyStrobeIsCounted _ _ _ h, drop_trace_of_exec h, strobeCount_init]
  constructor
  · intro hphase
    rw [← hlength, ← Nat.zero_add (sentWords .init).length] at hphase
    obtain ⟨hzero, hrst, haccepted⟩ := sinceReset_of_acceptAll hphase
    refine ⟨hzero, hrst (List.ne_nil_of_length_pos (by omega)), fun n hlow hhigh => ?_⟩
    obtain ⟨k, rfl⟩ := Nat.exists_eq_add_of_le hlow
    exact haccepted k (by omega)
  · rintro ⟨hzero, hrst, htook⟩
    rw [hrst, acceptAll_of_accepted fun k hk => htook _ (Nat.le_add_right _ _) (by omega), takeAll_sinceReset hzero,
      hlength, Nat.zero_add]

end Machine

open Machine

/-- Settles O42: the eleven words taken set the four registers and begin the stream, and write no memory. -/
theorem windowSetPlacesWritePosition : Obligations.WindowSetPlacesWritePosition := by
  intro s x1 y1 x2 y2 hpre hrst hawaits
  have hexec := exec_eq_stateAfter ((refusalOf_eq_none_iff rfl).2 hpre)
  have hreceiver := receiver_of_exec hexec nofun nofun nofun
  rw [hrst, actionsOf, actionWords_map_word] at hreceiver
  obtain ⟨-, hwindow⟩ := hpre
  refine ⟨_, hexec, ?_, ifTook_of_acceptAll hreceiver fun htaken => ?_⟩
  · rw [hreceiver, acceptAll_strobes]
    rfl
  · rw [htaken, takeAll_windowWords hawaits (isAddressWindow_iff.2 hwindow)]
    exact ⟨rfl, rfl, fun _ => rfl⟩

/-- Settles O43: the pixel's words are those of its one cell. -/
theorem pixelWritesItsCell : Obligations.PixelWritesItsCell := by
  intro s x y color hs hf hrst hawaits
  obtain ⟨t, ht, hawaits', hunknown⟩ := exec_draws (i := .pixel x y color) (color := color)
    (ps := [(x.toNat, y.toNat)]) nofun nofun nofun ((refusalOf_eq_none_iff rfl).2 hs) hrst hawaits
    (by simpa [actionsOf] using actionWords_pixelActions hf) (by simpa using hf)
  refine ⟨t, ht, fun htook => ?_, hunknown⟩
  obtain ⟨hcommand, hcells, hothers⟩ := hawaits' htook
  obtain ⟨hhigh, hlow⟩ := hcells _ List.mem_cons_self
  exact ⟨hcommand, hhigh, hlow, fun a ha => hothers a (by simpa using ha)⟩

/-- Settles O45: the rectangle's words are those of the cells of its lines in frame, one cell after another. -/
theorem rectWritesItsCells : Obligations.RectWritesItsCells := by
  intro s x y size color filled hs hrst hawaits
  exact exec_draws nofun nofun nofun ((refusalOf_eq_none_iff rfl).2 hs) hrst hawaits actionWords_rectActions_eq_cells
    fun _ => inFrame_of_mem_rectCells

/-- Settles O44: the cells of the fill's rows in frame are the block. -/
theorem fillWritesItsBlock : Obligations.FillWritesItsBlock := by
  intro s x y size color hs hx hrst hawaits
  obtain ⟨t, ht, hdrawn, hunknown⟩ := rectWritesItsCells s x y size color true hs hrst hawaits
  refine ⟨t, ht, fun htook => ?_, hunknown⟩
  obtain ⟨hcommand, hcells, hothers⟩ := hdrawn htook
  refine ⟨hcommand, fun i j hi hj hy => hcells _ ((mem_rectCells_fill hx).2 ⟨i, j, hi, hj, hy, rfl⟩),
    fun a ha => hothers a fun p hp => ?_⟩
  obtain ⟨i, j, hi, hj, hy, rfl⟩ := (mem_rectCells_fill hx).1 hp
  exact ha i j hi hj hy

/-- Settles O46: the line's words are those of the cells of its touch list, one cell after another. -/
theorem lineWritesItsTouchList : Obligations.LineWritesItsTouchList := by
  intro s x1 y1 x2 y2 color hs h1 h2 hrst hawaits
  obtain ⟨t, ht, hdrawn⟩ := exec_draws (i := .line x1 y1 x2 y2 color) (color := color) nofun nofun nofun
    ((refusalOf_eq_none_iff rfl).2 hs) hrst hawaits (actionWords_lineActions_of_inFrame h1 h2)
    fun _ => inFrame_of_mem_lineTouches h1 h2
  exact ⟨_, t, touches_lineTouches _ _ _ _, ht, hdrawn⟩

/-- Settles O47: the window-set begins a stream at its first cell; each two data bytes store the pixel of the next. -/
theorem streamFillsWindowRowMajor : Obligations.StreamFillsWindowRowMajor := by
  intro s x1 y1 x2 y2 pixels hpre hrst hawaits hlength
  have hexec := exec_eq_stateAfter ((refusalOf_eq_none_iff rfl).2 hpre)
  obtain ⟨⟨hcfg, -⟩, hwindow⟩ := hpre
  set t := stateAfter (.setWin x1 y1 x2 y2) s
  have hrst' : t.latches.rst = .high := (rst_replay_eventsOf (i := .setWin x1 y1 x2 y2) nofun nofun _).trans hrst
  have hcfg' : t.cfg = true := by simp [t, stateAfter, hcfg]
  have hexec' : exec (.dataBytes (pixels.flatMap fun p => [p.1, p.2])) t = .next _ :=
    exec_eq_stateAfter (by simp [refusalOf, hcfg'])
  have hreceiver := receiver_of_exec hexec' nofun nofun nofun
  rw [receiver_of_exec hexec nofun nofun nofun, hrst, hrst', actionsOf, actionsOf, actionWords_map_word,
    actionWords_map_word, ← acceptAll_append] at hreceiver
  refine ⟨t, _, hexec, hexec', ifTook_of_acceptAll hreceiver fun htaken => ?_⟩
  rw [htaken, takeAll_append, takeAll_windowWords hawaits (isAddressWindow_iff.2 hwindow)]
  obtain ⟨hcells, hothers⟩ := takeAll_pixelBytes_fills (n := 0) (pixels := pixels)
    (r := { s.receiver with phase := .stream 0 none, window := ⟨x1, x2, y1, y2⟩ }) rfl
    (columnsValid_iff.2 ⟨hwindow.1, hwindow.2.1⟩) (by rw [Nat.zero_add]; exact hlength)
  simp only [Nat.zero_add] at hcells hothers
  exact ⟨hcells, fun a ha => hothers a fun k hk => not_or.1 (ha k hk)⟩

/-- Settles O48: the transfer's word is taken as `command_gram` and `dataByte_gram` say, or nothing is known. -/
theorem transferMemoryFrame : Obligations.TransferMemoryFrame := by
  intro s t byte isData h
  have hreceiver : t.receiver = s.receiver.accept s.latches.rst isData byte :=
    receiver_of_exec h nofun nofun nofun
  rw [hreceiver]
  split_ifs with hphase
  · intro a
    rw [accept_gram_of_unspecified hphase, Memory.read_nil]
  rcases accept_taken s.receiver s.latches.rst isData byte with hunknown | htaken
  · exact absurd hunknown.1 hphase
  rw [htaken] at hphase ⊢
  refine ⟨?_, ?_⟩
  · rintro rfl a
    rcases command_gram s.receiver byte with hunknown | ⟨-, hgram⟩
    · exact absurd hunknown.1 hphase
    · exact congrArg (Memory.read · a) hgram
  · rintro rfl
    rcases dataByte_gram s.receiver byte with hunknown | ⟨-, hwrites⟩
    · exact absurd hunknown.1 hphase
    · exact hwrites

/-- Settles O49: `CONFIGURE` and `RESET` lose what is known; `INIT` brings up a receiver that counted only its words. -/
theorem frameMemoryUnspecifiedAfterReset : Obligations.FrameMemoryUnspecifiedAfterReset := by
  rintro i s t (rfl | rfl | rfl) h
  · rw [eq_stateAfter_of_exec h]
    exact ⟨fun _ => rfl, fun _ => rfl, nofun, nofun⟩
  · rw [eq_stateAfter_of_exec h]
    exact ⟨fun _ => rfl, nofun, fun _ => rfl, nofun⟩
  · have hreceiver : t.receiver = (acceptAll s.latches.rst s.receiver (sentWords .init)).broughtUp 82 :=
      congrArg State.receiver (eq_stateAfter_of_exec h)
    have hphase := broughtUp_phase (acceptAll s.latches.rst s.receiver (sentWords .init)) 82
    rw [hreceiver, broughtUp_gram]
    exact ⟨fun _ => rfl, nofun, nofun, fun _ =>
      ⟨fun hup => hphase.trans (if_pos ((sinceReset_init_iff h).2 hup)),
        fun hup => hphase.trans (if_neg (mt (sinceReset_init_iff h).1 hup))⟩⟩

/-- Settles O50: in each situation the word's rule loses what is known, the phase and with it the memory. -/
theorem unspecifiedSituations : Obligations.UnspecifiedSituations := by
  intro r b
  refine ⟨fun h rs => ?_, fun n h rs => ?_, fun h => ?_, ?_, fun n first h => ?_, fun h h1 h2 h3 => ?_, fun h hw => ?_,
    fun b0 b1 b2 h hw => ?_, fun b0 b1 b2 h hw => ?_, fun n h hn => ?_, fun rst rs h => ?_,
    fun rst rs => accept_gram_of_unspecified⟩
  · cases rs <;> simp [Receiver.take, Receiver.command, Receiver.dataByte, h]
  · cases rs <;> simp [Receiver.take, Receiver.command, Receiver.dataByte, h]
  · simp [Receiver.take, Receiver.dataByte, h]
  · rintro got (h | h) <;> simp [Receiver.take, Receiver.command, h]
  · simp [Receiver.take, Receiver.command, h]
  · rw [take_command h, Receiver.startCommand, if_neg h1, if_neg h2, if_neg h3, Receiver.lose_phase]
  · rw [take_command h, startCommand_of_not_valid hw, Receiver.lose_phase]
  · simp [Receiver.take, Receiver.dataByte, h, takeColumns_of_not_valid r hw]
  · simp [Receiver.take, Receiver.dataByte, h, takeRows_of_not_valid r hw]
  · simp [Receiver.take, Receiver.dataByte, h, not_lt.2 hn]
  · rw [accept_of_not_taken h, Receiver.lose_phase]

end Sys2Proof
end
